-- ==== Sys2Proof/Word.lean ====
section
/-! DEFINITION. The machine's word types (spec/00_scope.md R7, R10): every value is unsigned, and a bit
vector stands only for what the spec adds, masks, shifts or stores as a word. -/

namespace Sys2Proof

/-- One byte: a general register, a timer, a memory byte, an immediate NN (R7). -/
abbrev Byte := BitVec 8

/-- A 16-bit word: PC, I, a call-stack slot, an instruction word (R7). -/
abbrev Word := BitVec 16

/-- A 4-bit field of an instruction word (R14): the row count N. -/
abbrev Nibble := BitVec 4

/-- A 12-bit address field NNN of an instruction word (R14). -/
abbrev Addr12 := BitVec 12

/-- The keypad vector: bit `k` is 1 when key `k` is held (10_state.md R29). -/
abbrev Keys := BitVec 16

/-- A general register's index 0x0..0xF (10_state.md R17). -/
abbrev Reg := Fin 16

/-- VF, the flag register (10_state.md R19). -/
abbrev Reg.vf : Reg := 15

/-- V0, the register BNNN adds (40_control_flow.md R91). -/
abbrev Reg.v0 : Reg := 0

/-- A key's index 0x0..0xF (R7, NUM_KEYS). -/
abbrev Key := Fin 16

/-- `zext_16` of a 12-bit field (R10, 30_encoding.md R58). -/
abbrev zext16OfAddr (nnn : Addr12) : Word := nnn.zeroExtend 16

/-- `zext_16` of a byte (R10). -/
abbrev zext16OfByte (b : Byte) : Word := b.zeroExtend 16

/-- One bit as a byte 0 or 1, the form in which VF holds a flag (10_state.md R19). -/
abbrev byteOfBool (c : Bool) : Byte := if c then 1 else 0

end Sys2Proof
end

