-- ==== Sys2Proof/Config.lean ====
section
/-! DEFINITION. What an implementation fixes, and the free values.

`Params` is the configuration of 00_scope.md R8: a model takes each as an argument, and R9 fixes each
for a whole run. The state carries it in its field `params`, which no step and no host call changes, so
every statement over all states holds for every configuration (log 4). CLOCK_HZ is not here: the core
does not read it (R8).

The opaque constants are the free values: the inputs of a `step` call that the state does not list
(60_exceptions.md R191, R192) and the key drawn among several (44_keypad_timers.md R162). They have no
body, so nothing can be proved of a value (log 3). -/

namespace Sys2Proof

/-- DRAW_EDGE: what happens to a sprite pixel beyond the screen (43_display.md R143). -/
inductive DrawEdge where
  | wrap
  | clip
  deriving DecidableEq, Repr

/-- SYS_MODE: what 0NNN does (40_control_flow.md R80). -/
inductive SysMode where
  | unknown
  | nop
  deriving DecidableEq, Repr

/-- ALU_FLAG_ORDER: which write to VF is last when X = F in 8XY4, 8XY5, 8XY7 (41_alu.md R99). -/
inductive AluFlagOrder where
  | flagLast
  | resultLast
  deriving DecidableEq, Repr

/-- SHIFT_VF_ORDER: whether 8XY6 and 8XYE write VF before or after the shift (41_alu.md R99). -/
inductive ShiftVfOrder where
  | flagFirst
  | flagLast
  deriving DecidableEq, Repr

/-- KEYWAIT_MODE: whether FX0A waits for a press or for a level (44_keypad_timers.md R161). -/
inductive KeywaitMode where
  | edge
  | level
  deriving DecidableEq, Repr

/-- KEYWAIT_PICK: how FX0A chooses among several new presses: the lowest index, or any of them, drawn
(44_keypad_timers.md R162: "a model that must not rely on this draws any member of P"). -/
inductive KeywaitPick where
  | lowest
  | drawn
  deriving DecidableEq, Repr

/-- FONT_DATA: 16 glyphs of 5 bytes (20_memory.md R43). -/
abbrev FontData := Vector Byte 80

/-- The parameters of 00_scope.md R8 that a rule of the core reads. -/
structure Params where
  drawEdge : DrawEdge
  sysMode : SysMode
  aluFlagOrder : AluFlagOrder
  shiftVfOrder : ShiftVfOrder
  keywaitMode : KeywaitMode
  keywaitPick : KeywaitPick
  fontData : FontData
  deriving DecidableEq, Repr

/-- The keypad vector of the `n`-th `step` call when the state lists no call: any vector. -/
opaque Config.freeKeys : Nat → Keys

/-- The random byte of the `n`-th `step` call when the state lists no call: any byte, under no law
(60_exceptions.md R192). -/
opaque Config.freeRnd : Nat → Byte

/-- The draw that picks one of several new presses under KEYWAIT_PICK = drawn, in the `n`-th `step`
call: any number (44_keypad_timers.md R162). -/
opaque Config.freePick : Nat → Nat

end Sys2Proof
end

