-- ==== Sys2Proof/Machine/Defaults.lean ====
section
/-! DEFINITION. The spec's default for each parameter (00_scope.md R8) and the reset contents of memory
(10_state.md R36, 20_memory.md R43). -/

namespace Sys2Proof.Machine

/-- The default FONT_DATA: glyph `d` at 5*d .. 5*d+4, top row first (20_memory.md R43, from general
knowledge by the spec's own mark, 93 G7; log 9). -/
def defaultFont : FontData :=
  #v[0xF0, 0x90, 0x90, 0x90, 0xF0,  -- 0
     0x20, 0x60, 0x20, 0x20, 0x70,  -- 1
     0xF0, 0x10, 0xF0, 0x80, 0xF0,  -- 2
     0xF0, 0x10, 0xF0, 0x10, 0xF0,  -- 3
     0x90, 0x90, 0xF0, 0x10, 0x10,  -- 4
     0xF0, 0x80, 0xF0, 0x10, 0xF0,  -- 5
     0xF0, 0x80, 0xF0, 0x90, 0xF0,  -- 6
     0xF0, 0x10, 0x20, 0x40, 0x40,  -- 7
     0xF0, 0x90, 0xF0, 0x90, 0xF0,  -- 8
     0xF0, 0x90, 0xF0, 0x10, 0xF0,  -- 9
     0xF0, 0x90, 0xF0, 0x90, 0x90,  -- A
     0xE0, 0x90, 0xE0, 0x90, 0xE0,  -- B
     0xF0, 0x80, 0x80, 0x80, 0xF0,  -- C
     0xE0, 0x90, 0x90, 0x90, 0xE0,  -- D
     0xF0, 0x80, 0xF0, 0x80, 0xF0,  -- E
     0xF0, 0x80, 0xF0, 0x80, 0x80]  -- F

/-- Every parameter at the default of 00_scope.md R8. -/
def defaultParams : Params where
  drawEdge := .wrap
  sysMode := .unknown
  aluFlagOrder := .flagLast
  shiftVfOrder := .flagFirst
  keywaitMode := .edge
  keywaitPick := .lowest
  fontData := defaultFont

/-- What an address holds after reset, and so what an address the memory list does not name reads as:
the font in 0x000-0x04F (20_memory.md R43), zero elsewhere (10_state.md R36, decision D18; log 5). -/
def resetByte (font : FontData) (a : Nat) : Byte := if h : a < 80 then font[a] else 0

end Sys2Proof.Machine
end

