-- ==== Sys2Proof/Machine/State.lean ====
section
/-! DEFINITION. The machine's state (10_state.md R16), the results its operations return, and the state
after reset (R36). -/

namespace Sys2Proof.Machine

/-- A fault a `step` reports, with its info (60_exceptions.md R171). Taking one is a NEXT state: FAULT and
HALTED change as R173 says and the host gets this value (log 1). -/
inductive StepFault where
  /-- Code 1, not fatal: decode found no operation for `w`, or SYS under SYS_MODE = unknown (R176). -/
  | unknownOpcode (w : Word)
  /-- Code 2, fatal: CALL with SP = 16 (R175). -/
  | stackOverflow
  /-- Code 3, fatal: RET with SP = 0 (R175). -/
  | stackUnderflow
  /-- Code 4, fatal: fetch with PC > 0xFFE (R177). -/
  | fetchOutOfRange (pc : Word)
  /-- Code 5, fatal: FX33, FX55 or FX65 would access an address above 0xFFF; the lowest such (R178). -/
  | memoryOutOfRange (a : Nat)
  /-- Code 6, fatal: FX33 or FX55 would write an address in 0x000-0x04F; the lowest such (R179). -/
  | fontWrite (a : Nat)
  /-- Code 7, fatal: EX9E or EXA1 with VX = `v` > 0xF (R180). -/
  | keyIndexOutOfRange (v : Byte)
  deriving DecidableEq, Repr

/-- What a `step` call returns to the host (60_exceptions.md R171). -/
inductive StepResult where
  /-- OK: the instruction completed. -/
  | ok
  /-- BLOCKED: FX0A saw no new press; not an error. -/
  | blocked
  /-- HALTED: the core was halted before the call; nothing was executed. -/
  | halted
  /-- A fault. -/
  | fault (f : StepFault)
  deriving DecidableEq, Repr

/-- What `load_program` (70_reset_and_hazards.md R202) or `read_pixel` (60_exceptions.md R189) returns. -/
inductive HostReply where
  | loadOk
  | romTooLarge (len : Nat)
  | pixel (lit : Bool)
  deriving DecidableEq, Repr

/-- MODE (10_state.md R31). -/
inductive Mode where
  | running
  | blockedOnKey
  deriving DecidableEq, Repr

/-- One call of the host: the transactions of 60_exceptions.md R196. -/
inductive HostCall where
  | reset
  | loadProgram (rom : List Byte)
  | step (keys : Keys) (rnd : Byte)
  | tickTimers
  | clearRedraw
  | readPixel (x : Fin 64) (y : Fin 32)
  deriving DecidableEq, Repr

/-- The general registers V0..VF (10_state.md R17). -/
abbrev RegFile := Vector Byte 16

/-- The call stack's 16 slots (10_state.md R24). -/
abbrev CallStack := Vector Word 16

/-- The framebuffer: row `y` is 64 bits, bit `x` of it is `fb[x, y]` (10_state.md R27; the arrangement
cannot be observed, log 7). -/
abbrev Frame := Vector (BitVec 64) 32

/-- Memory: the bytes that differ from `resetByte`, by strictly rising address (20_memory.md R38; the
canonical form is `Memory.wf`). -/
abbrev Memory := List Host.Cell

/-- The state. Down to `fault` it is what 10_state.md R16 lists; the fields after it are the model's own
carriers of inputs, outputs and configuration (logs 1 to 4). -/
structure State where
  /-- V0..VF (R17). -/
  v : RegFile
  /-- I (R20). -/
  i : Word
  /-- PC, the address of the instruction being executed (R21). -/
  pc : Word
  /-- stack[0..15] (R24); a popped slot keeps its value (R25). -/
  stack : CallStack
  /-- SP, the number of occupied slots, 0..16 (R24). -/
  sp : Fin 17
  /-- DT, the delay timer (R26). -/
  dt : Byte
  /-- ST, the sound timer (R26). -/
  st : Byte
  /-- The framebuffer (R27). -/
  fb : Frame
  /-- REDRAW (R28). -/
  redraw : Bool
  /-- Memory (20_memory.md R38). -/
  mem : Memory
  /-- kp_prev, the key latch (R30). -/
  kpPrev : Keys
  /-- MODE (R31). -/
  mode : Mode
  /-- HALTED (R32). -/
  halted : Bool
  /-- FAULT: 0, or the code of the first fault since reset (R32). -/
  fault : BitVec 4
  /-- The `keys` argument of the `step` call being executed (R29). -/
  keys : Keys
  /-- The `rnd` argument of the `step` call being executed (60_exceptions.md R192). -/
  rnd : Byte
  /-- The host's calls still to come, oldest first (60_exceptions.md R196; log 2). -/
  script : List HostCall
  /-- How many `step` calls were made: the counter the free values are applied to (log 3). -/
  draws : Nat
  /-- The configuration (00_scope.md R8, R9; log 4). -/
  params : Params
  /-- The result of the last `step` call since reset (60_exceptions.md R171). -/
  lastStep : Option StepResult
  /-- What the last `load_program` or `read_pixel` call since reset returned. -/
  reply : Option HostReply
  deriving DecidableEq, Repr

/-- Reasons for the machine to stop with a fault. There are none: the spec gives every fault of the core a
state to go on in (60_exceptions.md R172-R174), so a fault is a next state whose `lastStep` names it
(`StepFault`). Nothing raises a value of this type (safe: it is empty). -/
inductive Fault where
  deriving DecidableEq, Repr

/-- Reasons for an instruction to have no meaning. -/
inductive Refusal where
  /-- An arm of `exec` whose instruction is not modelled yet. No arm raises it: every row of the opcode
  table has its meaning (safe: a refusal proves nothing). -/
  | notModelled (mnemonic : String)
  deriving DecidableEq, Repr

/-- What a step or an instruction's meaning answers. -/
abbrev Answer := Host.Outcome State Fault Refusal

/-- The state after `reset()` under a configuration (10_state.md R36; 70_reset_and_hazards.md R200, R201).
The model's own fields start at the values log 2 and log 3 name. -/
def State.resetWith (p : Params) : State where
  v := Vector.replicate 16 0
  i := 0
  pc := 0x200
  stack := Vector.replicate 16 0
  sp := 0
  dt := 0
  st := 0
  fb := Vector.replicate 32 0
  redraw := false
  mem := []
  kpPrev := 0
  mode := .running
  halted := false
  fault := 0
  keys := 0
  rnd := 0
  script := []
  draws := 0
  params := p
  lastStep := none
  reply := none

/-- The machine right after reset, every parameter at the spec's default (00_scope.md R8). -/
def State.reset : State := State.resetWith defaultParams

end Sys2Proof.Machine
end

