-- ==== Sys2Proof/Machine/Ops.lean ====
section
/-! DEFINITION. The named operations over memory, registers, stack and framebuffer, the address checks, and
the three ways a `step` ends: completed, blocked, or raising a fault (00_scope.md R11-R13). -/

namespace Sys2Proof.Machine

/-! ## Memory (00_scope.md R12; 20_memory.md R38, R46, R47) -/

/-- The number of addresses, 0x000-0xFFF (20_memory.md R38). -/
def memSize : Nat := 4096

/-- The number of protected font bytes, 0x000-0x04F (20_memory.md R47). -/
def fontSize : Nat := 80

/-- PROG_BASE (00_scope.md R7). -/
def progBase : Nat := 0x200

/-- ROM_MAX (00_scope.md R7, 90_conflicts.md C2). -/
def romMax : Nat := 0xE00

/-- `MemRead(a, 1)`: the listed byte, else the reset contents (20_memory.md R50: "or the reset value if
there was none"). -/
def Memory.read (font : FontData) : Memory → Nat → Byte
  | [], a => resetByte font a
  | (k, c) :: rest, a => if k = a then c else Memory.read font rest a

/-- `MemWrite(a, 1, b)`, keeping the canonical form: writing the reset contents unlists the address. -/
def Memory.write (font : FontData) : Memory → Nat → Byte → Memory
  | [], a, b => if b = resetByte font a then [] else [(a, b)]
  | (k, c) :: rest, a, b =>
    if a < k then (if b = resetByte font a then (k, c) :: rest else (a, b) :: (k, c) :: rest)
    else if k = a then (if b = resetByte font a then rest else (a, b) :: rest)
    else (k, c) :: Memory.write font rest a b

/-- Whether every listed address is at least `lo` and they rise strictly, inside 0x000-0xFFF, and no entry
equals the reset contents. -/
def Memory.wfFrom (font : FontData) : Nat → Memory → Bool
  | _, [] => true
  | lo, (k, c) :: rest =>
    decide (lo ≤ k) && decide (k < memSize) && decide (c ≠ resetByte font k) && Memory.wfFrom font (k + 1) rest

/-- The canonical form of memory: equal memories are equal lists. -/
def Memory.wf (font : FontData) (m : Memory) : Bool := Memory.wfFrom font 0 m

/-- Bytes written at ascending addresses from `a` (20_memory.md R42). -/
def Memory.writeBytes (font : FontData) : Memory → Nat → List Byte → Memory
  | m, _, [] => m
  | m, a, b :: bs => Memory.writeBytes font (Memory.write font m a b) (a + 1) bs

/-- The byte at an address. -/
def State.readByte (s : State) (a : Nat) : Byte := Memory.read s.params.fontData s.mem a

/-- Store bytes at ascending addresses from `a`. -/
def State.storeBytes (s : State) (a : Nat) (bs : List Byte) : State :=
  { s with mem := Memory.writeBytes s.params.fontData s.mem a bs }

/-- `CheckRange(base, count)`: MEMORY_OUT_OF_RANGE with the lowest address above 0xFFF, if there is one
(20_memory.md R46). -/
def checkRange (base count : Nat) : Option StepFault :=
  ((List.range count).find? fun k => decide (0xFFF < base + k)).map fun k => .memoryOutOfRange (base + k)

/-- `CheckNoFont(base, count)`: FONT_WRITE with the lowest address in the font, if there is one
(20_memory.md R47). -/
def checkNoFont (base count : Nat) : Option StepFault :=
  ((List.range count).find? fun k => decide (base + k ≤ 0x04F)).map fun k => .fontWrite (base + k)

/-! ## Fetch (20_memory.md R41) -/

/-- `Fetch(PC)`: the big-endian word at PC, PC + 1; none when PC + 1 > 0xFFF. -/
def State.fetchWord (s : State) : Option Word :=
  if 0xFFF < s.pc.toNat + 1 then none
  else some (s.readByte s.pc.toNat ++ s.readByte (s.pc.toNat + 1))

/-! ## Registers (10_state.md R17, R22; 40_control_flow.md R79) -/

/-- `V[x]`. -/
def State.getV (s : State) (x : Reg) : Byte := s.v[x]

/-- `V[x] <- b`. -/
def State.setV (s : State) (x : Reg) (b : Byte) : State := { s with v := s.v.set x b }

/-- V0..V[last] loaded from memory at ascending addresses from `base`, the other registers kept
(42_index_memory.md R132). -/
def State.loadV (s : State) (base : Nat) (last : Reg) : State :=
  { s with v := Vector.ofFn fun k : Fin 16 => if k ≤ last then s.readByte (base + k) else s.v[k] }

/-- V0..V[last] as a list, V0 first (42_index_memory.md R131). -/
def State.firstV (s : State) (last : Reg) : List Byte := s.v.toList.take (last + 1)

/-- `Advance`. -/
def State.advance (s : State) : State := { s with pc := s.pc + 2 }

/-- `SkipIf(c)`. -/
def State.skipIf (s : State) (c : Bool) : State := { s with pc := if c then s.pc + 4 else s.pc + 2 }

/-- `PC <- target`. -/
def State.jumpTo (s : State) (target : Word) : State := { s with pc := target }

/-! ## Framebuffer (10_state.md R27) -/

/-- `fb[x, y]`. -/
def Frame.pixel (fb : Frame) (x : Fin 64) (y : Fin 32) : Bool := fb[y].getLsbD x

/-- `fb[x, y] <- fb[x, y] XOR 1`. -/
def Frame.toggle (fb : Frame) (x : Fin 64) (y : Fin 32) : Frame := fb.set y (fb[y] ^^^ BitVec.twoPow 64 x)

/-- Every pixel 0. -/
def Frame.clear : Frame := Vector.replicate 32 0

/-! ## How a step ends (60_exceptions.md R172, R173) -/

/-- A fault's 4-bit code (60_exceptions.md R171). -/
def StepFault.code : StepFault → BitVec 4
  | .unknownOpcode _ => 1
  | .stackOverflow => 2
  | .stackUnderflow => 3
  | .fetchOutOfRange _ => 4
  | .memoryOutOfRange _ => 5
  | .fontWrite _ => 6
  | .keyIndexOutOfRange _ => 7

/-- Whether a fault is fatal (60_exceptions.md R171): all but UNKNOWN_OPCODE. -/
def StepFault.fatal : StepFault → Bool
  | .unknownOpcode _ => false
  | .stackOverflow | .stackUnderflow | .fetchOutOfRange _ => true
  | .memoryOutOfRange _ | .fontWrite _ | .keyIndexOutOfRange _ => true

/-- TAKING A FAULT, the one operation every `raise F(info)` of the spec goes through (60_exceptions.md
R172, R173): FAULT takes the code if it was 0, HALTED becomes 1 if the fault is fatal, the host gets the
fault, and nothing else changes. There is no return from a fault (R183): only `reset` clears FAULT and
HALTED. -/
def State.raise (s : State) (f : StepFault) : State :=
  { s with
    fault := if s.fault = 0 then f.code else s.fault
    halted := s.halted || f.fatal
    lastStep := some (.fault f) }

/-- Result OK: MODE <- RUNNING, kp_prev <- keys, after the instruction's own effects (60_exceptions.md
R172; 10_state.md R30, R31). -/
def State.completed (s : State) : State :=
  { s with mode := .running, kpPrev := s.keys, lastStep := some .ok }

/-- Result BLOCKED: MODE <- BLOCKED_ON_KEY, kp_prev <- keys, nothing else (44_keypad_timers.md R162, R163). -/
def State.blocked (s : State) : State :=
  { s with mode := .blockedOnKey, kpPrev := s.keys, lastStep := some .blocked }

/-- Result HALTED: nothing changes (60_exceptions.md R172, R174). -/
def State.stayHalted (s : State) : State := { s with lastStep := some .halted }

/-- The end of an instruction that does not transfer control: Advance, result OK. -/
def State.done (s : State) : State := s.advance.completed

end Sys2Proof.Machine
end

