-- ==== Sys2Proof/Machine/Flags.lean ====
section
/-! DEFINITION. Every flag VF can receive (41_alu.md R98, 42_index_memory.md R126) and the order of the
flag's and the result's writes when X = F (41_alu.md R99). -/

namespace Sys2Proof.Machine

/-- The carry of an 8-bit addition: 1 when the exact sum is above 255 (41_alu.md R106). -/
def carryFlag (a b : Byte) : Byte := byteOfBool (decide (255 < a.toNat + b.toNat))

/-- 1 when no borrow occurs in `a - b`, that is a >= b (41_alu.md R107, R109). -/
def noBorrowFlag (a b : Byte) : Byte := byteOfBool (decide (b.toNat ≤ a.toNat))

/-- Bit 0, the bit a right shift drops (41_alu.md R108). -/
def lowBitFlag (a : Byte) : Byte := byteOfBool (a.getLsbD 0)

/-- Bit 7, the bit a left shift drops (41_alu.md R110). -/
def highBitFlag (a : Byte) : Byte := byteOfBool (a.getLsbD 7)

/-- 1 when I + VX, as an unbounded sum, is above 0xFFF (42_index_memory.md R126). -/
def indexOverflowFlag (i : Word) (b : Byte) : Byte := byteOfBool (decide (0xFFF < i.toNat + b.toNat))

/-- Write the result to V[x] and the flag to VF in the order ALU_FLAG_ORDER gives (41_alu.md R99). -/
def State.writeAlu (s : State) (x : Reg) (result flag : Byte) : State :=
  match s.params.aluFlagOrder with
  | .flagLast => (s.setV x result).setV Reg.vf flag
  | .resultLast => (s.setV Reg.vf flag).setV x result

/-- A shift of V[x] by one with its dropped bit to VF, in the order SHIFT_VF_ORDER gives: under flag_first
the shift reads V[x] after the write to VF (41_alu.md R108, R110). -/
def State.writeShift (s : State) (x : Reg) (shift dropped : Byte → Byte) : State :=
  match s.params.shiftVfOrder with
  | .flagFirst =>
    let t := s.setV Reg.vf (dropped (s.getV x))
    t.setV x (shift (t.getV x))
  | .flagLast => (s.setV x (shift (s.getV x))).setV Reg.vf (dropped (s.getV x))

end Sys2Proof.Machine
end

