-- ==== Sys2Proof/Machine/Alu.lean ====
section
/-! DEFINITION. Register loads, the ALU and the random byte (41_alu.md). Sources are read before any
register is written (R99). -/

namespace Sys2Proof.Machine

/-- 6XNN, LD VX, NN (R100). -/
def execLdImm (x : Reg) (nn : Byte) (s : State) : Answer := .next (s.setV x nn).done

/-- 7XNN, ADD VX, NN (R101): no flag. -/
def execAddImm (x : Reg) (nn : Byte) (s : State) : Answer := .next (s.setV x (s.getV x + nn)).done

/-- 8XY0, LD VX, VY (R102). -/
def execLdReg (x y : Reg) (s : State) : Answer := .next (s.setV x (s.getV y)).done

/-- 8XY1, OR VX, VY (R103): VF is not written when X is not F. -/
def execOrReg (x y : Reg) (s : State) : Answer := .next (s.setV x (s.getV x ||| s.getV y)).done

/-- 8XY2, AND VX, VY (R104). -/
def execAndReg (x y : Reg) (s : State) : Answer := .next (s.setV x (s.getV x &&& s.getV y)).done

/-- 8XY3, XOR VX, VY (R105). -/
def execXorReg (x y : Reg) (s : State) : Answer := .next (s.setV x (s.getV x ^^^ s.getV y)).done

/-- 8XY4, ADD VX, VY (R106). -/
def execAddReg (x y : Reg) (s : State) : Answer :=
  .next (s.writeAlu x (s.getV x + s.getV y) (carryFlag (s.getV x) (s.getV y))).done

/-- 8XY5, SUB VX, VY (R107). -/
def execSubReg (x y : Reg) (s : State) : Answer :=
  .next (s.writeAlu x (s.getV x - s.getV y) (noBorrowFlag (s.getV x) (s.getV y))).done

/-- 8XY6, SHR VX (R108): VY is never read. -/
def execShr (x _y : Reg) (s : State) : Answer := .next (s.writeShift x (· >>> 1) lowBitFlag).done

/-- 8XY7, SUBN VX, VY (R109). -/
def execSubnReg (x y : Reg) (s : State) : Answer :=
  .next (s.writeAlu x (s.getV y - s.getV x) (noBorrowFlag (s.getV y) (s.getV x))).done

/-- 8XYE, SHL VX (R110): VY is never read. -/
def execShl (x _y : Reg) (s : State) : Answer := .next (s.writeShift x (· <<< 1) highBitFlag).done

/-- CXNN, RND VX, NN (R111): `rnd` is the random byte of this step. -/
def execRnd (x : Reg) (nn : Byte) (s : State) : Answer := .next (s.setV x (s.rnd &&& nn)).done

end Sys2Proof.Machine
end

