-- ==== Sys2Proof/Syntax.lean ====
section
/-! DEFINITION. The instruction set: one constructor per row of spec/opcode_table.json (30_encoding.md
R59, R60, R64), each carrying the operand fields R60 gives it. -/

namespace Sys2Proof

/-- The 35 operations. Don't-care fields follow R60: SHR and SHL carry the Y they ignore (R63); SE_reg
and SNE_reg do not carry the N that the decoder does not examine (R62). -/
inductive Instr where
  /-- 0NNN (not 00E0, 00EE): SYS NNN. -/
  | sys (nnn : Addr12)
  /-- 00E0: CLS. -/
  | cls
  /-- 00EE: RET. -/
  | ret
  /-- 1NNN: JP NNN. -/
  | jp (nnn : Addr12)
  /-- 2NNN: CALL NNN. -/
  | call (nnn : Addr12)
  /-- 3XNN: SE VX, NN. -/
  | seImm (x : Reg) (nn : Byte)
  /-- 4XNN: SNE VX, NN. -/
  | sneImm (x : Reg) (nn : Byte)
  /-- 5XYN: SE VX, VY. -/
  | seReg (x y : Reg)
  /-- 6XNN: LD VX, NN. -/
  | ldImm (x : Reg) (nn : Byte)
  /-- 7XNN: ADD VX, NN. -/
  | addImm (x : Reg) (nn : Byte)
  /-- 8XY0: LD VX, VY. -/
  | ldReg (x y : Reg)
  /-- 8XY1: OR VX, VY. -/
  | orReg (x y : Reg)
  /-- 8XY2: AND VX, VY. -/
  | andReg (x y : Reg)
  /-- 8XY3: XOR VX, VY. -/
  | xorReg (x y : Reg)
  /-- 8XY4: ADD VX, VY. -/
  | addReg (x y : Reg)
  /-- 8XY5: SUB VX, VY. -/
  | subReg (x y : Reg)
  /-- 8XY6: SHR VX; Y is encoded and ignored. -/
  | shr (x y : Reg)
  /-- 8XY7: SUBN VX, VY. -/
  | subnReg (x y : Reg)
  /-- 8XYE: SHL VX; Y is encoded and ignored. -/
  | shl (x y : Reg)
  /-- 9XYN: SNE VX, VY. -/
  | sneReg (x y : Reg)
  /-- ANNN: LD I, NNN. -/
  | ldI (nnn : Addr12)
  /-- BNNN: JP V0, NNN. -/
  | jpV0 (nnn : Addr12)
  /-- CXNN: RND VX, NN. -/
  | rnd (x : Reg) (nn : Byte)
  /-- DXYN: DRW VX, VY, N. -/
  | drw (x y : Reg) (n : Nibble)
  /-- EX9E: SKP VX. -/
  | skp (x : Reg)
  /-- EXA1: SKNP VX. -/
  | sknp (x : Reg)
  /-- FX07: LD VX, DT. -/
  | ldVxDt (x : Reg)
  /-- FX0A: LD VX, K. -/
  | ldVxK (x : Reg)
  /-- FX15: LD DT, VX. -/
  | ldDtVx (x : Reg)
  /-- FX18: LD ST, VX. -/
  | ldStVx (x : Reg)
  /-- FX1E: ADD I, VX. -/
  | addI (x : Reg)
  /-- FX29: LD F, VX. -/
  | ldF (x : Reg)
  /-- FX33: LD B, VX. -/
  | ldB (x : Reg)
  /-- FX55: LD [I], VX. -/
  | ldMemVx (x : Reg)
  /-- FX65: LD VX, [I]. -/
  | ldVxMem (x : Reg)
  deriving DecidableEq, Repr

end Sys2Proof
end

