-- ==== Sys2Proof/WellFormed.lean ====
section
/-! DEFINITION. Which terms of `Instr` some word encodes. The field types already bound every operand;
the one side condition is that a SYS word is neither the CLS word nor the RET word (30_encoding.md R61). -/

namespace Sys2Proof

/-- A SYS address whose word 0x0NNN is not 0x00E0 and not 0x00EE (30_encoding.md R61; the `excludes` of
the SYS row of spec/opcode_table.json). -/
def sysAddressOk (nnn : Addr12) : Bool := nnn != 0x0E0#12 && nnn != 0x0EE#12

/-- An instruction that some word encodes. -/
def Instr.wellFormed : Instr → Bool
  | .sys nnn => sysAddressOk nnn
  | .cls | .ret | .jp _ | .call _ | .seImm _ _ | .sneImm _ _ | .seReg _ _ | .ldImm _ _ | .addImm _ _ => true
  | .ldReg _ _ | .orReg _ _ | .andReg _ _ | .xorReg _ _ | .addReg _ _ | .subReg _ _ | .shr _ _ => true
  | .subnReg _ _ | .shl _ _ | .sneReg _ _ | .ldI _ | .jpV0 _ | .rnd _ _ | .drw _ _ _ | .skp _ | .sknp _ => true
  | .ldVxDt _ | .ldVxK _ | .ldDtVx _ | .ldStVx _ | .addI _ | .ldF _ | .ldB _ | .ldMemVx _ | .ldVxMem _ => true

end Sys2Proof
end

