-- ==== Sys2Proof/Machine/ControlFlow.lean ====
section
/-! DEFINITION. Control flow (40_control_flow.md): SYS, RET, JP, CALL, the skips, JP V0. -/

namespace Sys2Proof.Machine

/-- 0NNN, SYS NNN (R80): under SYS_MODE = unknown it raises UNKNOWN_OPCODE(w); under nop it only advances. -/
def execSys (nnn : Addr12) (s : State) : Answer :=
  .next (match s.params.sysMode with
    | .unknown => s.raise (.unknownOpcode (wordNNN 0x0#4 nnn))
    | .nop => s.done)

/-- 00EE, RET (R82): pop the address of the CALL and resume at the word after it; the slot keeps its
value (10_state.md R25). -/
def execRet (s : State) : Answer :=
  .next (if h : 0 < s.sp.val then
      State.completed { s with
        sp := ⟨s.sp.val - 1, by omega⟩
        pc := s.stack[s.sp.val - 1] + 2 }
    else s.raise .stackUnderflow)

/-- 1NNN, JP NNN (R83). -/
def execJp (nnn : Addr12) (s : State) : Answer := .next (s.jumpTo (zext16OfAddr nnn)).completed

/-- 2NNN, CALL NNN (R84): push the address of this CALL. -/
def execCall (nnn : Addr12) (s : State) : Answer :=
  .next (if h : s.sp.val < 16 then
      State.completed { s with
        stack := s.stack.set s.sp.val s.pc
        sp := ⟨s.sp.val + 1, by omega⟩
        pc := zext16OfAddr nnn }
    else s.raise .stackOverflow)

/-- 3XNN, SE VX, NN (R86). -/
def execSeImm (x : Reg) (nn : Byte) (s : State) : Answer := .next (s.skipIf (s.getV x == nn)).completed

/-- 4XNN, SNE VX, NN (R87). -/
def execSneImm (x : Reg) (nn : Byte) (s : State) : Answer := .next (s.skipIf (s.getV x != nn)).completed

/-- 5XYN, SE VX, VY (R88). -/
def execSeReg (x y : Reg) (s : State) : Answer := .next (s.skipIf (s.getV x == s.getV y)).completed

/-- 9XYN, SNE VX, VY (R89). -/
def execSneReg (x y : Reg) (s : State) : Answer := .next (s.skipIf (s.getV x != s.getV y)).completed

/-- BNNN, JP V0, NNN (R91). -/
def execJpV0 (nnn : Addr12) (s : State) : Answer :=
  .next (s.jumpTo (zext16OfAddr nnn + zext16OfByte (s.getV Reg.v0))).completed

end Sys2Proof.Machine
end

