-- ==== Sys2Proof/Machine/Operands.lean ====
section
/-! DEFINITION. The operand forms: the address I + k (42_index_memory.md R124), BCD digits, the sprite
(43_display.md R142, R143), the key index and the new-press set (44_keypad_timers.md R154, R161). -/

namespace Sys2Proof.Machine

/-- The address I as an unbounded integer (42_index_memory.md R124, 20_memory.md R46). -/
def State.indexAddr (s : State) : Nat := s.i.toNat

/-- The three decimal digits of a byte, hundreds first (42_index_memory.md R130). -/
def bcdDigits (b : Byte) : List Byte :=
  [BitVec.ofNat 8 (b.toNat / 100), BitVec.ofNat 8 (b.toNat / 10 % 10), BitVec.ofNat 8 (b.toNat % 10)]

/-- A pixel's column and row. -/
abbrev Pixel := Fin 64 × Fin 32

/-- Where the sprite's pixel at column offset `col` of row `r` falls on the screen, under DRAW_EDGE; none
when it is clipped (43_display.md R143). -/
def placePixel (edge : DrawEdge) (x0 y0 : Byte) (col r : Nat) : Option Pixel :=
  match edge with
  | .wrap =>
    some (⟨(x0.toNat + col) % 64, Nat.mod_lt _ (by decide)⟩, ⟨(y0.toNat + r) % 32, Nat.mod_lt _ (by decide)⟩)
  | .clip =>
    if h : x0.toNat % 64 + col < 64 ∧ y0.toNat % 32 + r < 32 then
      some (⟨x0.toNat % 64 + col, h.1⟩, ⟨y0.toNat % 32 + r, h.2⟩)
    else none

/-- The pixels one sprite row toggles: bit 7 of the row's byte is column offset 0 (43_display.md R142). -/
def rowPixels (edge : DrawEdge) (x0 y0 : Byte) (r : Nat) (b : Byte) : List Pixel :=
  (List.range 8).filterMap fun col => if b.getLsbD (7 - col) then placePixel edge x0 y0 col r else none

/-- The pixels a sprite toggles, in the order of R143's loops; a row whose address is above 0xFFF is
skipped. -/
def State.spritePixels (s : State) (x0 y0 : Byte) (n : Nat) : List Pixel :=
  (List.range n).flatMap fun r =>
    if 0xFFF < s.indexAddr + r then []
    else rowPixels s.params.drawEdge x0 y0 r (s.readByte (s.indexAddr + r))

/-- XOR the listed pixels into the framebuffer, in order; the flag tells whether any of them was set when
it was toggled (43_display.md R143). -/
def drawPixels : List Pixel → Frame → Bool → Frame × Bool
  | [], fb, c => (fb, c)
  | p :: ps, fb, c => drawPixels ps (fb.toggle p.1 p.2) (c || fb.pixel p.1 p.2)

/-- `KeyIndex(v)`: none when v > 0xF (44_keypad_timers.md R154). -/
def keyIndex (v : Byte) : Option Key := if h : v.toNat < 16 then some ⟨v.toNat, h⟩ else none

/-- `keys[k]`: key `k` is held at this step (10_state.md R29). -/
def State.keyHeld (s : State) (k : Key) : Bool := s.keys.getLsbD k

/-- `NewPresses(keys)`, by ascending index (44_keypad_timers.md R161). -/
def State.newPresses (s : State) : List Key :=
  (List.finRange 16).filter fun k =>
    match s.params.keywaitMode with
    | .edge => s.keyHeld k && !s.kpPrev.getLsbD k
    | .level => s.keyHeld k

/-- The key FX0A takes from the new presses, if there is one: the lowest index, or any, by the draw
(44_keypad_timers.md R162). -/
def pickKey (pick : KeywaitPick) (draw : Nat) : List Key → Option Key
  | [] => none
  | k :: ks =>
    match pick with
    | .lowest => some k
    | .drawn => (k :: ks)[draw % (ks.length + 1)]?

end Sys2Proof.Machine
end

