-- ==== Sys2Proof/Machine/Display.lean ====
section
/-! DEFINITION. The framebuffer write controller (43_display.md R140): CLS and DRW. -/

namespace Sys2Proof.Machine

/-- 00E0, CLS (R141). -/
def execCls (s : State) : Answer := .next (State.done { s with fb := Frame.clear, redraw := true })

/-- DXYN, DRW VX, VY, N (R143): the origin is read before VF is written. -/
def execDrw (x y : Reg) (n : Nibble) (s : State) : Answer :=
  let drawn := drawPixels (s.spritePixels (s.getV x) (s.getV y) n.toNat) s.fb false
  .next (State.setV { s with fb := drawn.1, redraw := true } Reg.vf (byteOfBool drawn.2)).done

end Sys2Proof.Machine
end

