-- ==== Sys2Proof/Machine/IndexMemory.lean ====
section
/-! DEFINITION. The index register and the memory transfers (42_index_memory.md). I is never changed by an
access (R124), and every check precedes every write (00_scope.md R13). -/

namespace Sys2Proof.Machine

/-- ANNN, LD I, NNN (R125). -/
def execLdI (nnn : Addr12) (s : State) : Answer := .next (State.done { s with i := zext16OfAddr nnn })

/-- FX1E, ADD I, VX (R126): I mod 2^16, the flag from the unbounded sum. -/
def execAddI (x : Reg) (s : State) : Answer :=
  .next (State.setV { s with i := s.i + zext16OfByte (s.getV x) } Reg.vf (indexOverflowFlag s.i (s.getV x))).done

/-- FX29, LD F, VX (R127): VX is not masked. -/
def execLdF (x : Reg) (s : State) : Answer := .next (State.done { s with i := zext16OfByte (s.getV x) * 5 })

/-- FX33, LD B, VX (R130). -/
def execLdB (x : Reg) (s : State) : Answer :=
  .next (match (checkRange s.indexAddr 3).or (checkNoFont s.indexAddr 3) with
    | some f => s.raise f
    | none => (s.storeBytes s.indexAddr (bcdDigits (s.getV x))).done)

/-- FX55, LD [I], VX (R131). -/
def execLdMemVx (x : Reg) (s : State) : Answer :=
  .next (match (checkRange s.indexAddr (x + 1)).or (checkNoFont s.indexAddr (x + 1)) with
    | some f => s.raise f
    | none => (s.storeBytes s.indexAddr (s.firstV x)).done)

/-- FX65, LD VX, [I] (R132). -/
def execLdVxMem (x : Reg) (s : State) : Answer :=
  .next (match checkRange s.indexAddr (x + 1) with
    | some f => s.raise f
    | none => (s.loadV s.indexAddr x).done)

end Sys2Proof.Machine
end

