-- ==== Sys2Proof/Machine/KeypadTimers.lean ====
section
/-! DEFINITION. The keypad and timer instructions (44_keypad_timers.md). -/

namespace Sys2Proof.Machine

/-- EX9E, SKP VX (R154, R155). -/
def execSkp (x : Reg) (s : State) : Answer :=
  .next (match keyIndex (s.getV x) with
    | none => s.raise (.keyIndexOutOfRange (s.getV x))
    | some k => (s.skipIf (s.keyHeld k)).completed)

/-- EXA1, SKNP VX (R154, R156). -/
def execSknp (x : Reg) (s : State) : Answer :=
  .next (match keyIndex (s.getV x) with
    | none => s.raise (.keyIndexOutOfRange (s.getV x))
    | some k => (s.skipIf (!s.keyHeld k)).completed)

/-- FX07, LD VX, DT (R158). -/
def execLdVxDt (x : Reg) (s : State) : Answer := .next (s.setV x s.dt).done

/-- FX0A, LD VX, K (R161-R163): BLOCKED, with PC unchanged, while there is no new press. -/
def execLdVxK (x : Reg) (s : State) : Answer :=
  .next (match pickKey s.params.keywaitPick (Config.freePick s.draws) s.newPresses with
    | none => s.blocked
    | some k => (s.setV x (BitVec.ofNat 8 k)).done)

/-- FX15, LD DT, VX (R159). -/
def execLdDtVx (x : Reg) (s : State) : Answer := .next (State.done { s with dt := s.getV x })

/-- FX18, LD ST, VX (R160). -/
def execLdStVx (x : Reg) (s : State) : Answer := .next (State.done { s with st := s.getV x })

end Sys2Proof.Machine
end

