-- ==== Sys2Proof/Machine/HostCalls.lean ====
section
/-! DEFINITION. The host's operations other than `step` (60_exceptions.md R185, R189, R190, R196;
70_reset_and_hazards.md R200-R203; 10_state.md R28, R33), and what the host can read. -/

namespace Sys2Proof.Machine

/-- `reset()` (70_reset_and_hazards.md R200): every piece of core state as after reset, under the same
configuration (00_scope.md R9). The model's carriers of the host's calls and inputs stay. -/
def State.resetCall (s : State) : State :=
  { State.resetWith s.params with script := s.script, draws := s.draws, keys := s.keys, rnd := s.rnd }

/-- `load_program(rom)` (70_reset_and_hazards.md R202, R203): the ROM's bytes from 0x200 and nothing else; a
ROM longer than 0xE00 writes nothing. It acts the same on a halted core. -/
def State.loadProgram (s : State) (rom : List Byte) : State :=
  if romMax < rom.length then { s with reply := some (.romTooLarge rom.length) }
  else { s.storeBytes progBase rom with reply := some .loadOk }

/-- One timer's decrement: never below 0 (60_exceptions.md R185). -/
def countDown (t : Byte) : Byte := if 0 < t.toNat then t - 1 else t

/-- `tick_timers()` (60_exceptions.md R185), whatever MODE and HALTED are. -/
def State.tickTimers (s : State) : State := { s with dt := countDown s.dt, st := countDown s.st }

/-- `clear_redraw()` (10_state.md R28). -/
def State.clearRedraw (s : State) : State := { s with redraw := false }

/-- `read_pixel(x, y)` (60_exceptions.md R189): the host gets `fb[x, y]`; nothing changes. -/
def State.readPixel (s : State) (x : Fin 64) (y : Fin 32) : State := { s with reply := some (.pixel (s.fb.pixel x y)) }

/-- MODE as STATUS shows it (10_state.md R31). -/
def Mode.bit : Mode → Bool
  | .running => false
  | .blockedOnKey => true

/-- STATUS (10_state.md R33): bit 0 REDRAW, bit 1 MODE, bit 2 HALTED, bit 3 reads 0, bits 7:4 FAULT. -/
def State.statusByte (s : State) : Byte :=
  s.fault ++ 0#1 ++ BitVec.ofBool s.halted ++ BitVec.ofBool s.mode.bit ++ BitVec.ofBool s.redraw

/-- The sound output `ST != 0` (60_exceptions.md R190). -/
def State.soundOutput (s : State) : Bool := s.st != 0

end Sys2Proof.Machine
end

