-- ==== Sys2Proof/Machine/Procedure.lean ====
section
/-! DEFINITION. The step procedure (60_exceptions.md R172, R181) and the host's next call (R196). -/

namespace Sys2Proof.Machine

/-- `step(keys, rnd)` once its arguments are in the state: HALTED, then fetch, then decode, then the
instruction (60_exceptions.md R172, R181). -/
def State.stepCall (s : State) : Answer :=
  if s.halted then .next s.stayHalted
  else match s.fetchWord with
    | none => .next (s.raise (.fetchOutOfRange s.pc))
    | some w =>
      match decodeWord w with
      | .unknown u => .next (s.raise (.unknownOpcode u))
      | .instr i => exec i s

/-- The arguments of a `step` call (10_state.md R29; 60_exceptions.md R191, R192); one more call counted. -/
def State.present (s : State) (keys : Keys) (rnd : Byte) : State :=
  { s with keys := keys, rnd := rnd, draws := s.draws + 1 }

/-- The host's next call: the oldest one the state lists; with none listed, a `step` whose keypad vector
and random byte are free (logs 2 and 3). -/
def State.nextCall (s : State) : HostCall :=
  match s.script with
  | [] => .step (Config.freeKeys s.draws) (Config.freeRnd s.draws)
  | c :: _ => c

/-- The state once the host's next call is taken off the list. -/
def State.takeCall (s : State) : State := { s with script := s.script.tail }

/-- One call of the host (60_exceptions.md R196). -/
def State.perform (s : State) : HostCall → Answer
  | .reset => .next s.resetCall
  | .loadProgram rom => .next (s.loadProgram rom)
  | .step keys rnd => (s.present keys rnd).stepCall
  | .tickTimers => .next s.tickTimers
  | .clearRedraw => .next s.clearRedraw
  | .readPixel x y => .next (s.readPixel x y)

/-! ## Placing an instruction (the host's question "does step run this row?") -/

/-- Where an instruction is placed: at PC, or at 0x200 where no word can be fetched at PC (R177). -/
def State.placingPc (s : State) : Word := if 0xFFF < s.pc.toNat + 1 then 0x200 else s.pc

/-- The listed calls, if the next one is a `step`; else none, so that the next call is a `step`. -/
def State.placingScript (s : State) : List HostCall :=
  match s.script with
  | .step k r :: rest => .step k r :: rest
  | [] | .reset :: _ | .loadProgram _ :: _ | .tickTimers :: _ | .clearRedraw :: _ | .readPixel _ _ :: _ => []

/-- `s` with the word at the place the next step fetches from, running (not halted), and a `step` next. -/
def State.placeWord (s : State) (w : Word) : State :=
  { s.storeBytes s.placingPc.toNat [highByte w, lowByte w] with
    pc := s.placingPc
    halted := false
    script := s.placingScript }

end Sys2Proof.Machine
end

