-- ==== Sys2Proof/Machine/Step.lean ====
section
/-! DEFINITION. The machine's one step: the host's next call (60_exceptions.md R196), which is a `step` of
the core (R172) unless the state lists another call first (log 2). -/

namespace Sys2Proof.Machine

/-- One transaction: the host's next call. -/
def step (s : State) : Host.Outcome State Fault Refusal := s.takeCall.perform s.nextCall

/-- `s` with an instruction stored where the next step fetches (see `State.placeWord`; log 2). -/
def State.withFetchWord (s : State) (nbits w : Nat) : State := s.placeWord (tableWord nbits w)

end Sys2Proof.Machine
end

