-- ==== Sys2Proof/Safety.lean ====
section
/-! DEFINITION. What counts as a safe state and the ends of a run, in the terms the statements use
(70_reset_and_hazards.md R211; 20_memory.md R47, R48; 10_state.md R32). -/

namespace Sys2Proof.Machine

/-- Memory is in its canonical form. -/
def State.MemoryCanonical (s : State) : Prop := Memory.wf s.params.fontData s.mem = true

/-- The font region holds FONT_DATA (20_memory.md R47: "font region is never overwritten"). -/
def State.FontIntact (s : State) : Prop := ∀ a : Fin 80, s.readByte a = s.params.fontData[a]

/-- FAULT and HALTED agree (10_state.md R32, 60_exceptions.md R171, R174): codes 8-15 are unused, a halted
core has a fault on record, and a fatal first fault has halted the core. -/
structure State.StatusConsistent (s : State) : Prop where
  codeUsed : s.fault.toNat ≤ 7
  haltedHasFault : s.halted = true → s.fault ≠ 0
  fatalHalts : 2 ≤ s.fault.toNat → s.halted = true

/-- End (a), spin: the word at PC is a jump to itself (70_reset_and_hazards.md R211). -/
def State.SpinEnd (s : State) : Prop :=
  ∃ w, s.fetchWord = some w ∧ ∃ nnn : Addr12, w = 0x1#4 ++ nnn ∧ zext16OfAddr nnn = s.pc

/-- End (b), faulted: FAULT != 0. A faulted end is never a good end (R211). -/
def State.FaultedEnd (s : State) : Prop := s.fault ≠ 0

/-- End (c), waiting: the last step returned BLOCKED (R211). -/
def State.WaitingEnd (s : State) : Prop := s.lastStep = some .blocked

/-- A state some run reaches: from reset under some configuration and some script of host calls, by steps. -/
inductive State.Reachable : State → Prop where
  | boot (p : Params) (script : List HostCall) : State.Reachable { State.resetWith p with script := script }
  | step {s t : State} : State.Reachable s → Machine.step s = .next t → State.Reachable t

end Sys2Proof.Machine
end

