-- ==== Sys2Proof/Certificates/Slice0/Obligations.lean ====
section
/-! DEFINITION. The statements for the provers. Each docstring names the rules of spec/ it comes from. A
next state is written out as `s` with the fields that change, so that such a statement is also the
instruction's frame: every field not written there is as before. The bit patterns are those the spec supplies
from general knowledge (93_implementation_defined.md G1, log 9). MODE and kp_prev, which every completing
instruction writes, are the spec's own decisions D3 and D14 (log 8); `lastStep` is the model's carrier of the
result (log 1). -/

open Sys2Proof Sys2Proof.Machine

/-! ## Encoding -/

/-- Decoding the word of a well-formed instruction gives that instruction back, for every operand value
(30_encoding.md R59, R60, R64). -/
def Obligations.DecodeOfEncodeIsTheInstruction : Prop :=
  ∀ i : Instr, i.wellFormed = true → decodeWord (encode i) = .instr i

/-- What the decoder reads from any word is well-formed, and encoding it gives the word back, but for the N
that families 5 and 9 do not examine, which is written 0 (30_encoding.md R59, R62). -/
def Obligations.EncodeOfDecodedIsTheWord : Prop :=
  ∀ (w : Word) (i : Instr), decodeWord w = .instr i →
    i.wellFormed = true ∧
    encode i = if fieldF w = 0x5#4 ∨ fieldF w = 0x9#4 then wordXYN (fieldF w) (fieldX w) (fieldY w) 0x0#4 else w

/-- Decode by family, every pattern at every operand value, and the unmapped selectors of families 8, E and
F (30_encoding.md R60).
The selecting values are from general knowledge by the spec's own mark, the whole-word compare is its
decision D5 (logs 8 and 9). -/
def Obligations.DecodeFollowsThePatterns : Prop :=
  ∀ (x y : Reg) (n : Nibble) (nn : Byte) (nnn : Addr12),
    decodeWord 0x00E0#16 = .instr .cls ∧ decodeWord 0x00EE#16 = .instr .ret ∧
    (wordNNN 0x0#4 nnn ≠ 0x00E0#16 → wordNNN 0x0#4 nnn ≠ 0x00EE#16 →
      decodeWord (wordNNN 0x0#4 nnn) = .instr (.sys nnn)) ∧
    decodeWord (wordNNN 0x1#4 nnn) = .instr (.jp nnn) ∧
    decodeWord (wordNNN 0x2#4 nnn) = .instr (.call nnn) ∧
    decodeWord (wordXNN 0x3#4 x nn) = .instr (.seImm x nn) ∧
    decodeWord (wordXNN 0x4#4 x nn) = .instr (.sneImm x nn) ∧
    decodeWord (wordXYN 0x5#4 x y n) = .instr (.seReg x y) ∧
    decodeWord (wordXNN 0x6#4 x nn) = .instr (.ldImm x nn) ∧
    decodeWord (wordXNN 0x7#4 x nn) = .instr (.addImm x nn) ∧
    decodeWord (wordXYN 0x8#4 x y 0x0#4) = .instr (.ldReg x y) ∧
    decodeWord (wordXYN 0x8#4 x y 0x1#4) = .instr (.orReg x y) ∧
    decodeWord (wordXYN 0x8#4 x y 0x2#4) = .instr (.andReg x y) ∧
    decodeWord (wordXYN 0x8#4 x y 0x3#4) = .instr (.xorReg x y) ∧
    decodeWord (wordXYN 0x8#4 x y 0x4#4) = .instr (.addReg x y) ∧
    decodeWord (wordXYN 0x8#4 x y 0x5#4) = .instr (.subReg x y) ∧
    decodeWord (wordXYN 0x8#4 x y 0x6#4) = .instr (.shr x y) ∧
    decodeWord (wordXYN 0x8#4 x y 0x7#4) = .instr (.subnReg x y) ∧
    decodeWord (wordXYN 0x8#4 x y 0xE#4) = .instr (.shl x y) ∧
    (n ∈ [0x8#4, 0x9#4, 0xA#4, 0xB#4, 0xC#4, 0xD#4, 0xF#4] →
      decodeWord (wordXYN 0x8#4 x y n) = .unknown (wordXYN 0x8#4 x y n)) ∧
    decodeWord (wordXYN 0x9#4 x y n) = .instr (.sneReg x y) ∧
    decodeWord (wordNNN 0xA#4 nnn) = .instr (.ldI nnn) ∧
    decodeWord (wordNNN 0xB#4 nnn) = .instr (.jpV0 nnn) ∧
    decodeWord (wordXNN 0xC#4 x nn) = .instr (.rnd x nn) ∧
    decodeWord (wordXYN 0xD#4 x y n) = .instr (.drw x y n) ∧
    decodeWord (wordXNN 0xE#4 x 0x9E#8) = .instr (.skp x) ∧
    decodeWord (wordXNN 0xE#4 x 0xA1#8) = .instr (.sknp x) ∧
    (nn ∉ [0x9E#8, 0xA1#8] → decodeWord (wordXNN 0xE#4 x nn) = .unknown (wordXNN 0xE#4 x nn)) ∧
    decodeWord (wordXNN 0xF#4 x 0x07#8) = .instr (.ldVxDt x) ∧
    decodeWord (wordXNN 0xF#4 x 0x0A#8) = .instr (.ldVxK x) ∧
    decodeWord (wordXNN 0xF#4 x 0x15#8) = .instr (.ldDtVx x) ∧
    decodeWord (wordXNN 0xF#4 x 0x18#8) = .instr (.ldStVx x) ∧
    decodeWord (wordXNN 0xF#4 x 0x1E#8) = .instr (.addI x) ∧
    decodeWord (wordXNN 0xF#4 x 0x29#8) = .instr (.ldF x) ∧
    decodeWord (wordXNN 0xF#4 x 0x33#8) = .instr (.ldB x) ∧
    decodeWord (wordXNN 0xF#4 x 0x55#8) = .instr (.ldMemVx x) ∧
    decodeWord (wordXNN 0xF#4 x 0x65#8) = .instr (.ldVxMem x) ∧
    (nn ∉ [0x07#8, 0x0A#8, 0x15#8, 0x18#8, 0x1E#8, 0x29#8, 0x33#8, 0x55#8, 0x65#8] →
      decodeWord (wordXNN 0xF#4 x nn) = .unknown (wordXNN 0xF#4 x nn))

/-- At least one word of each of the 16 families decodes to what it stands for (30_encoding.md R60; the words are
those of 95_test_vectors.md; the patterns are the spec's from general knowledge, log 9). -/
def Obligations.SampleWordsDecode : Prop :=
  decodeWord 0x01E0#16 = .instr (.sys 0x1E0#12) ∧ decodeWord 0x1ABC#16 = .instr (.jp 0xABC#12) ∧
  decodeWord 0x2304#16 = .instr (.call 0x304#12) ∧ decodeWord 0x3342#16 = .instr (.seImm 3 0x42#8) ∧
  decodeWord 0x4342#16 = .instr (.sneImm 3 0x42#8) ∧ decodeWord 0x5121#16 = .instr (.seReg 1 2) ∧
  decodeWord 0x6A2F#16 = .instr (.ldImm 0xA 0x2F#8) ∧ decodeWord 0x7103#16 = .instr (.addImm 1 0x03#8) ∧
  decodeWord 0x8FFE#16 = .instr (.shl 0xF 0xF) ∧ decodeWord 0x8128#16 = .unknown 0x8128#16 ∧
  decodeWord 0x9AB3#16 = .instr (.sneReg 0xA 0xB) ∧ decodeWord 0xA2F0#16 = .instr (.ldI 0x2F0#12) ∧
  decodeWord 0xB300#16 = .instr (.jpV0 0x300#12) ∧ decodeWord 0xC30F#16 = .instr (.rnd 3 0x0F#8) ∧
  decodeWord 0xD015#16 = .instr (.drw 0 1 0x5#4) ∧ decodeWord 0xE1A1#16 = .instr (.sknp 1) ∧
  decodeWord 0xF165#16 = .instr (.ldVxMem 1) ∧ decodeWord 0xFFFF#16 = .unknown 0xFFFF#16

/-! ## The step -/

/-- The instruction word is the big-endian word at PC and PC + 1, whatever the parity of PC, and there is
none exactly when PC + 1 is above 0xFFF (20_memory.md R41, R44).
The check above 0xFFF is the spec's own decision D7 (log 8). -/
def Obligations.FetchIsBigEndian : Prop :=
  ∀ s : State,
    (s.pc.toNat + 1 ≤ 0xFFF → ∃ w, s.fetchWord = some w ∧
      w.toNat = 256 * (s.readByte s.pc.toNat).toNat + (s.readByte (s.pc.toNat + 1)).toNat) ∧
    (0xFFF < s.pc.toNat + 1 → s.fetchWord = none)

/-- A step of a core that is not halted runs the instruction the bytes at PC decode to: it is `exec` of it at
the state that holds the step's keypad vector and random byte. The first clause is a listed `step` call, the
second a state that lists no call, whose inputs are free (log 3; 60_exceptions.md R172). -/
def Obligations.StepRunsTheDecodedInstruction : Prop :=
  ∀ (s : State) (i : Instr), s.halted = false → s.pc.toNat + 1 ≤ 0xFFF →
    decodeBytes (s.readByte s.pc.toNat) (s.readByte (s.pc.toNat + 1)) = .instr i →
    (∀ keys rnd rest, s.script = .step keys rnd :: rest →
      step s = exec i { s with script := rest, keys := keys, rnd := rnd, draws := s.draws + 1 }) ∧
    (s.script = [] → step s = exec i { s with
      keys := Config.freeKeys s.draws, rnd := Config.freeRnd s.draws, draws := s.draws + 1 })

/-- What a `step` call does before any instruction runs, in order (60_exceptions.md R172, R181). A halted core
answers HALTED and changes nothing else (R174). With PC above 0xFFE it raises FETCH_OUT_OF_RANGE(PC), fatal
(R177). A word that decodes to UNKNOWN raises UNKNOWN_OPCODE(w), not fatal, PC not advanced (R176).
Halting, the fetch check and the order are the spec's own decisions D3, D7, D24 (log 8). -/
def Obligations.StepChecksBeforeExecuting : Prop :=
  ∀ (s : State) keys rnd, s.nextCall = .step keys rnd →
    (s.halted = true → step s = .next { s with
      script := s.script.tail, keys := keys, rnd := rnd, draws := s.draws + 1, lastStep := some .halted }) ∧
    (s.halted = false → 0xFFF < s.pc.toNat + 1 → step s = .next { s with
      script := s.script.tail, keys := keys, rnd := rnd, draws := s.draws + 1
      fault := if s.fault = 0 then 4 else s.fault, halted := true
      lastStep := some (.fault (.fetchOutOfRange s.pc)) }) ∧
    (s.halted = false → s.pc.toNat + 1 ≤ 0xFFF → ∀ w,
      decodeBytes (s.readByte s.pc.toNat) (s.readByte (s.pc.toNat + 1)) = .unknown w →
      w = wordOfBytes (s.readByte s.pc.toNat) (s.readByte (s.pc.toNat + 1)) ∧
      step s = .next { s with
        script := s.script.tail, keys := keys, rnd := rnd, draws := s.draws + 1
        fault := if s.fault = 0 then 1 else s.fault
        lastStep := some (.fault (.unknownOpcode w)) })

/-- Every call of the host ends in a next state, and a `step` call always leaves a result: the machine never
stops (60_exceptions.md R171, R174; log 1). -/
def Obligations.EveryStepAnswersANextState : Prop :=
  ∀ s : State, ∃ t, step s = .next t ∧ ∀ keys rnd, s.nextCall = .step keys rnd → t.lastStep.isSome = true

/-- A step that raises changes FAULT and HALTED, and nothing else of the core (60_exceptions.md R173). What else
is written here is the model's own: the call taken off its list, its arguments, the count, the result.
The record and the halt are the spec's own decisions D3, D25 (log 8). -/
def Obligations.RaisingStepChangesOnlyFaultAndHalted : Prop :=
  ∀ (s t : State) (f : StepFault) keys rnd, s.nextCall = .step keys rnd → step s = .next t →
    t.lastStep = some (.fault f) →
    t = { s with
      script := s.script.tail, keys := keys, rnd := rnd, draws := s.draws + 1
      fault := if s.fault = 0 then f.code else s.fault, halted := s.halted || f.fatal
      lastStep := some (.fault f) }

/-- The fault codes and which faults are fatal (60_exceptions.md R171).
The numeric codes are the spec's own decision D2 (log 8). -/
def Obligations.FaultCodesFollowTheTable : Prop :=
  ∀ (w : Word) (a : Nat) (b : Byte),
    (StepFault.unknownOpcode w).code = 1 ∧ (StepFault.unknownOpcode w).fatal = false ∧
    StepFault.stackOverflow.code = 2 ∧ StepFault.stackOverflow.fatal = true ∧
    StepFault.stackUnderflow.code = 3 ∧ StepFault.stackUnderflow.fatal = true ∧
    (StepFault.fetchOutOfRange w).code = 4 ∧ (StepFault.fetchOutOfRange w).fatal = true ∧
    (StepFault.memoryOutOfRange a).code = 5 ∧ (StepFault.memoryOutOfRange a).fatal = true ∧
    (StepFault.fontWrite a).code = 6 ∧ (StepFault.fontWrite a).fatal = true ∧
    (StepFault.keyIndexOutOfRange b).code = 7 ∧ (StepFault.keyIndexOutOfRange b).fatal = true

/-! ## Control flow -/

/-- SYS NNN: raises UNKNOWN_OPCODE(w) under SYS_MODE = unknown, only advances under nop (40_control_flow.md
R80).
What SYS does is the spec's own decision D4, SYS_MODE (log 8). -/
def Obligations.SysRaisesOrAdvances : Prop :=
  ∀ (nnn : Addr12) (s : State),
    (wordNNN 0x0#4 nnn ≠ 0x00E0#16 → wordNNN 0x0#4 nnn ≠ 0x00EE#16 →
      decodeWord (wordNNN 0x0#4 nnn) = .instr (.sys nnn)) ∧
    (s.params.sysMode = .unknown → exec (.sys nnn) s = .next { s with
      fault := if s.fault = 0 then 1 else s.fault
      lastStep := some (.fault (.unknownOpcode (wordNNN 0x0#4 nnn))) }) ∧
    (s.params.sysMode = .nop → exec (.sys nnn) s = .next { s with
      pc := s.pc + 2, mode := .running, kpPrev := s.keys, lastStep := some .ok })

/-- RET: with SP = k + 1 it pops slot k and resumes at the word after the CALL; the slot keeps its value; with
SP = 0 it raises STACK_UNDERFLOW (40_control_flow.md R82).
That the slot keeps its value is the spec's own decision D21, what the fault records and leaves D2, D3, D25 (log 8). -/
def Obligations.RetPopsOrUnderflows : Prop :=
  ∀ s : State,
    decodeWord 0x00EE#16 = .instr .ret ∧
    (∀ k : Fin 16, s.sp = k.succ → exec .ret s = .next { s with
      sp := k.castSucc, pc := s.stack[k] + 2, mode := .running, kpPrev := s.keys, lastStep := some .ok }) ∧
    (s.sp = 0 → exec .ret s = .next { s with
      fault := if s.fault = 0 then 3 else s.fault, halted := true
      lastStep := some (.fault .stackUnderflow) })

/-- JP NNN (1NNN); JP V0, NNN (BNNN), whose sum never wraps (40_control_flow.md R83, R91). -/
def Obligations.JumpsSetPc : Prop :=
  ∀ (nnn : Addr12) (s : State),
    decodeWord (wordNNN 0x1#4 nnn) = .instr (.jp nnn) ∧
    exec (.jp nnn) s = .next { s with
      pc := BitVec.ofNat 16 nnn.toNat, mode := .running, kpPrev := s.keys, lastStep := some .ok } ∧
    decodeWord (wordNNN 0xB#4 nnn) = .instr (.jpV0 nnn) ∧
    nnn.toNat + (s.v[Reg.v0]).toNat ≤ 0x10FE ∧
    exec (.jpV0 nnn) s = .next { s with
      pc := BitVec.ofNat 16 (nnn.toNat + (s.v[Reg.v0]).toNat)
      mode := .running, kpPrev := s.keys, lastStep := some .ok }

/-- CALL NNN: with SP = k < 16 it pushes its own address in slot k; with SP = 16 it raises STACK_OVERFLOW
(40_control_flow.md R84).
What the fault records and leaves is the spec's own decisions D2, D3, D25 (log 8). -/
def Obligations.CallPushesOrOverflows : Prop :=
  ∀ (nnn : Addr12) (s : State),
    decodeWord (wordNNN 0x2#4 nnn) = .instr (.call nnn) ∧
    (∀ k : Fin 16, s.sp = k.castSucc → exec (.call nnn) s = .next { s with
      stack := s.stack.set k s.pc, sp := k.succ, pc := BitVec.ofNat 16 nnn.toNat
      mode := .running, kpPrev := s.keys, lastStep := some .ok }) ∧
    (s.sp = 16 → exec (.call nnn) s = .next { s with
      fault := if s.fault = 0 then 2 else s.fault, halted := true
      lastStep := some (.fault .stackOverflow) })

/-- A RET at the same stack resumes at the word after the CALL and restores SP (40_control_flow.md R82, R84;
90_conflicts.md C3). -/
def Obligations.RetReturnsAfterItsCall : Prop :=
  ∀ (nnn : Addr12) (s u : State), s.sp ≠ 16 →
    ∃ t, exec (.call nnn) s = .next t ∧
      (u.stack = t.stack → u.sp = t.sp → ∃ r, exec .ret u = .next r ∧ r.pc = s.pc + 2 ∧ r.sp = s.sp)

/-- SE VX, NN (3XNN) skips when equal, SNE VX, NN (4XNN) when different (40_control_flow.md R86, R87). -/
def Obligations.ImmediateSkips : Prop :=
  ∀ (x : Reg) (nn : Byte) (s : State),
    decodeWord (wordXNN 0x3#4 x nn) = .instr (.seImm x nn) ∧
    exec (.seImm x nn) s = .next { s with
      pc := if s.v[x] = nn then s.pc + 4 else s.pc + 2, mode := .running, kpPrev := s.keys, lastStep := some .ok } ∧
    decodeWord (wordXNN 0x4#4 x nn) = .instr (.sneImm x nn) ∧
    exec (.sneImm x nn) s = .next { s with
      pc := if s.v[x] ≠ nn then s.pc + 4 else s.pc + 2, mode := .running, kpPrev := s.keys, lastStep := some .ok }

/-- SE VX, VY (5XYN) skips when equal, SNE VX, VY (9XYN) when different, for any N (40_control_flow.md R88,
R89). -/
def Obligations.RegisterSkips : Prop :=
  ∀ (x y : Reg) (n : Nibble) (s : State),
    decodeWord (wordXYN 0x5#4 x y n) = .instr (.seReg x y) ∧
    exec (.seReg x y) s = .next { s with
      pc := if s.v[x] = s.v[y] then s.pc + 4 else s.pc + 2
      mode := .running, kpPrev := s.keys, lastStep := some .ok } ∧
    decodeWord (wordXYN 0x9#4 x y n) = .instr (.sneReg x y) ∧
    exec (.sneReg x y) s = .next { s with
      pc := if s.v[x] ≠ s.v[y] then s.pc + 4 else s.pc + 2
      mode := .running, kpPrev := s.keys, lastStep := some .ok }

/-! ## ALU -/

/-- LD VX, NN (6XNN); ADD VX, NN (7XNN), mod 256 and with no flag (41_alu.md R100, R101). -/
def Obligations.ImmediateLoadAndAdd : Prop :=
  ∀ (x : Reg) (nn : Byte) (s : State),
    decodeWord (wordXNN 0x6#4 x nn) = .instr (.ldImm x nn) ∧
    exec (.ldImm x nn) s = .next { s with
      v := s.v.set x nn, pc := s.pc + 2, mode := .running, kpPrev := s.keys, lastStep := some .ok } ∧
    decodeWord (wordXNN 0x7#4 x nn) = .instr (.addImm x nn) ∧
    exec (.addImm x nn) s = .next { s with
      v := s.v.set x (BitVec.ofNat 8 (((s.v[x]).toNat + nn.toNat) % 256))
      pc := s.pc + 2, mode := .running, kpPrev := s.keys, lastStep := some .ok }

/-- LD VX, VY: 8XY0; no flag. The spec supplies this row from general knowledge, its own decision D6 (41_alu.md
R102; logs 8 and 9). -/
def Obligations.CopyRegister : Prop :=
  ∀ (x y : Reg) (s : State),
    decodeWord (wordXYN 0x8#4 x y 0x0#4) = .instr (.ldReg x y) ∧
    exec (.ldReg x y) s = .next { s with
      v := s.v.set x s.v[y], pc := s.pc + 2, mode := .running, kpPrev := s.keys, lastStep := some .ok }

/-- OR, AND, XOR (8XY1, 8XY2, 8XY3); VF is not written when X is not F (41_alu.md R103, R104, R105). -/
def Obligations.LogicWritesNoFlag : Prop :=
  ∀ (x y : Reg) (s : State),
    decodeWord (wordXYN 0x8#4 x y 0x1#4) = .instr (.orReg x y) ∧
    exec (.orReg x y) s = .next { s with
      v := s.v.set x (s.v[x] ||| s.v[y])
      pc := s.pc + 2, mode := .running, kpPrev := s.keys, lastStep := some .ok } ∧
    decodeWord (wordXYN 0x8#4 x y 0x2#4) = .instr (.andReg x y) ∧
    exec (.andReg x y) s = .next { s with
      v := s.v.set x (s.v[x] &&& s.v[y])
      pc := s.pc + 2, mode := .running, kpPrev := s.keys, lastStep := some .ok } ∧
    decodeWord (wordXYN 0x8#4 x y 0x3#4) = .instr (.xorReg x y) ∧
    exec (.xorReg x y) s = .next { s with
      v := s.v.set x (s.v[x] ^^^ s.v[y])
      pc := s.pc + 2, mode := .running, kpPrev := s.keys, lastStep := some .ok }

/-- The register file after a result for V[x] and a flag for VF are written in the order ALU_FLAG_ORDER gives
(41_alu.md R99). -/
def aluFile (s : State) (x : Reg) (result flag : Byte) : RegFile :=
  if s.params.aluFlagOrder = .flagLast then (s.v.set x result).set 15 flag else (s.v.set 15 flag).set x result

/-- The register file after a shift of V[x]: under flag_first VF takes the dropped bit and the shift then reads
V[x]; under flag_last the shift reads the old V[x] and VF is written last (41_alu.md R99, R108, R110). -/
def shiftFile (s : State) (x : Reg) (shift dropped : Nat → Nat) : RegFile :=
  let w := s.v.set 15 (BitVec.ofNat 8 (dropped (s.v[x]).toNat))
  if s.params.shiftVfOrder = .flagFirst then w.set x (BitVec.ofNat 8 (shift (w[x]).toNat))
  else (s.v.set x (BitVec.ofNat 8 (shift (s.v[x]).toNat))).set 15 (BitVec.ofNat 8 (dropped (s.v[x]).toNat))

/-- ADD VX, VY: 8XY4; the exact sum mod 256, VF = 1 when it is above 255 (41_alu.md R106). -/
def Obligations.AddRegWritesSumAndCarry : Prop :=
  ∀ (x y : Reg) (s : State),
    decodeWord (wordXYN 0x8#4 x y 0x4#4) = .instr (.addReg x y) ∧
    exec (.addReg x y) s = .next { s with
      v := aluFile s x (BitVec.ofNat 8 (((s.v[x]).toNat + (s.v[y]).toNat) % 256))
        (if 255 < (s.v[x]).toNat + (s.v[y]).toNat then 1 else 0)
      pc := s.pc + 2, mode := .running, kpPrev := s.keys, lastStep := some .ok }

/-- SUB VX, VY (8XY5): VX - VY mod 256, VF = 1 when VX >= VY. SUBN VX, VY (8XY7): VY - VX mod 256, VF = 1 when
VY >= VX (41_alu.md R107, R109). -/
def Obligations.SubtractionsWriteDifferenceAndNoBorrow : Prop :=
  ∀ (x y : Reg) (s : State),
    decodeWord (wordXYN 0x8#4 x y 0x5#4) = .instr (.subReg x y) ∧
    exec (.subReg x y) s = .next { s with
      v := aluFile s x (BitVec.ofNat 8 (((s.v[x]).toNat + 256 - (s.v[y]).toNat) % 256))
        (if (s.v[y]).toNat ≤ (s.v[x]).toNat then 1 else 0)
      pc := s.pc + 2, mode := .running, kpPrev := s.keys, lastStep := some .ok } ∧
    decodeWord (wordXYN 0x8#4 x y 0x7#4) = .instr (.subnReg x y) ∧
    exec (.subnReg x y) s = .next { s with
      v := aluFile s x (BitVec.ofNat 8 (((s.v[y]).toNat + 256 - (s.v[x]).toNat) % 256))
        (if (s.v[x]).toNat ≤ (s.v[y]).toNat then 1 else 0)
      pc := s.pc + 2, mode := .running, kpPrev := s.keys, lastStep := some .ok }

/-- SHR VX (8XY6) halves VX and drops its bit 0 to VF; SHL VX (8XYE) doubles VX mod 256 and drops its bit 7 to VF;
each for any Y (41_alu.md R108, R110). -/
def Obligations.ShiftsByOneDropABitToVF : Prop :=
  ∀ (x y : Reg) (s : State),
    decodeWord (wordXYN 0x8#4 x y 0x6#4) = .instr (.shr x y) ∧
    exec (.shr x y) s = .next { s with
      v := shiftFile s x (fun a => a / 2) (fun a => a % 2)
      pc := s.pc + 2, mode := .running, kpPrev := s.keys, lastStep := some .ok } ∧
    decodeWord (wordXYN 0x8#4 x y 0xE#4) = .instr (.shl x y) ∧
    exec (.shl x y) s = .next { s with
      v := shiftFile s x (fun a => a * 2 % 256) (fun a => a / 128)
      pc := s.pc + 2, mode := .running, kpPrev := s.keys, lastStep := some .ok }

/-- RND VX, NN: CXNN; the step's random byte, masked; it holds for every value of that byte (41_alu.md R111). -/
def Obligations.RndMasksTheRandomByte : Prop :=
  ∀ (x : Reg) (nn : Byte) (s : State),
    decodeWord (wordXNN 0xC#4 x nn) = .instr (.rnd x nn) ∧
    exec (.rnd x nn) s = .next { s with
      v := s.v.set x (s.rnd &&& nn), pc := s.pc + 2, mode := .running, kpPrev := s.keys, lastStep := some .ok }

/-! ## Index register and memory transfers -/

/-- LD I, NNN (ANNN); LD F, VX (FX29), VX not masked (42_index_memory.md R125, R127). -/
def Obligations.IndexIsSet : Prop :=
  ∀ (nnn : Addr12) (x : Reg) (s : State),
    decodeWord (wordNNN 0xA#4 nnn) = .instr (.ldI nnn) ∧
    exec (.ldI nnn) s = .next { s with
      i := BitVec.ofNat 16 nnn.toNat, pc := s.pc + 2, mode := .running, kpPrev := s.keys, lastStep := some .ok } ∧
    decodeWord (wordXNN 0xF#4 x 0x29#8) = .instr (.ldF x) ∧
    exec (.ldF x) s = .next { s with
      i := BitVec.ofNat 16 ((s.v[x]).toNat * 5), pc := s.pc + 2
      mode := .running, kpPrev := s.keys, lastStep := some .ok }

/-- ADD I, VX: FX1E; I mod 2^16, VF = 1 when the unbounded sum is above 0xFFF (42_index_memory.md R126).
The wrap above 0xFFFF is the spec's own decision D12 (log 8). -/
def Obligations.AddIFlagsAboveFFF : Prop :=
  ∀ (x : Reg) (s : State),
    decodeWord (wordXNN 0xF#4 x 0x1E#8) = .instr (.addI x) ∧
    exec (.addI x) s = .next { s with
      i := BitVec.ofNat 16 ((s.i.toNat + (s.v[x]).toNat) % 65536)
      v := s.v.set 15 (if 0xFFF < s.i.toNat + (s.v[x]).toNat then 1 else 0)
      pc := s.pc + 2, mode := .running, kpPrev := s.keys, lastStep := some .ok }

/-- LD B, VX: FX33. With I + 2 above 0xFFF, or I in the font, it raises and writes nothing. Otherwise it stores
the three digits at I, I + 1, I + 2 (read back in canonical memory), every other byte reads as before, and
nothing but memory and PC changes (42_index_memory.md R130).
Both checks are the spec's own decisions D8, D9 (log 8). -/
def Obligations.LdBStoresBcdDigits : Prop :=
  ∀ (x : Reg) (s : State),
    decodeWord (wordXNN 0xF#4 x 0x33#8) = .instr (.ldB x) ∧
    (0xFFF < s.i.toNat + 2 → exec (.ldB x) s = .next { s with
      fault := if s.fault = 0 then 5 else s.fault, halted := true
      lastStep := some (.fault (.memoryOutOfRange (max s.i.toNat 0x1000))) }) ∧
    (s.i.toNat ≤ 0x04F → exec (.ldB x) s = .next { s with
      fault := if s.fault = 0 then 6 else s.fault, halted := true
      lastStep := some (.fault (.fontWrite s.i.toNat)) }) ∧
    (0x04F < s.i.toNat → s.i.toNat + 2 ≤ 0xFFF → ∃ t, exec (.ldB x) s = .next t ∧
      t = { s with mem := t.mem, pc := s.pc + 2, mode := .running, kpPrev := s.keys, lastStep := some .ok } ∧
      (∀ a, a < s.i.toNat ∨ s.i.toNat + 2 < a → t.readByte a = s.readByte a) ∧
      (s.MemoryCanonical →
        (t.readByte s.i.toNat).toNat = (s.v[x]).toNat / 100 ∧
        (t.readByte (s.i.toNat + 1)).toNat = (s.v[x]).toNat / 10 % 10 ∧
        (t.readByte (s.i.toNat + 2)).toNat = (s.v[x]).toNat % 10))

/-- LD [I], VX: FX55. With I + X above 0xFFF, or I in the font, it raises and writes nothing. Otherwise it
stores V0..VX at I..I+X (read back in canonical memory), every other byte reads as before, and nothing but
memory and PC changes (42_index_memory.md R131).
Both checks are the spec's own decisions D8, D9 (log 8). -/
def Obligations.LdMemVxStoresTheRegisters : Prop :=
  ∀ (x : Reg) (s : State),
    decodeWord (wordXNN 0xF#4 x 0x55#8) = .instr (.ldMemVx x) ∧
    (0xFFF < s.i.toNat + x → exec (.ldMemVx x) s = .next { s with
      fault := if s.fault = 0 then 5 else s.fault, halted := true
      lastStep := some (.fault (.memoryOutOfRange (max s.i.toNat 0x1000))) }) ∧
    (s.i.toNat ≤ 0x04F → exec (.ldMemVx x) s = .next { s with
      fault := if s.fault = 0 then 6 else s.fault, halted := true
      lastStep := some (.fault (.fontWrite s.i.toNat)) }) ∧
    (0x04F < s.i.toNat → s.i.toNat + x ≤ 0xFFF → ∃ t, exec (.ldMemVx x) s = .next t ∧
      t = { s with mem := t.mem, pc := s.pc + 2, mode := .running, kpPrev := s.keys, lastStep := some .ok } ∧
      (∀ a, a < s.i.toNat ∨ s.i.toNat + x < a → t.readByte a = s.readByte a) ∧
      (s.MemoryCanonical → ∀ k : Reg, k ≤ x → t.readByte (s.i.toNat + k) = s.v[k]))

/-- LD VX, [I]: FX65. With I + X above 0xFFF it raises and loads nothing. Otherwise it loads V0..VX from
I..I+X; the other registers, I and memory are unchanged (42_index_memory.md R132).
The check is the spec's own decision D8 (log 8). -/
def Obligations.LdVxMemLoadsTheRegisters : Prop :=
  ∀ (x : Reg) (s : State),
    decodeWord (wordXNN 0xF#4 x 0x65#8) = .instr (.ldVxMem x) ∧
    (0xFFF < s.i.toNat + x → exec (.ldVxMem x) s = .next { s with
      fault := if s.fault = 0 then 5 else s.fault, halted := true
      lastStep := some (.fault (.memoryOutOfRange (max s.i.toNat 0x1000))) }) ∧
    (s.i.toNat + x ≤ 0xFFF → ∃ t, exec (.ldVxMem x) s = .next t ∧
      t = { s with v := t.v, pc := s.pc + 2, mode := .running, kpPrev := s.keys, lastStep := some .ok } ∧
      ∀ k : Reg, t.v[k] = if k ≤ x then s.readByte (s.i.toNat + k) else s.v[k])

/-- FX55 then FX65 with the same X and I, whatever happened to the general registers in between, restores
V0..VX and leaves I unchanged (42_index_memory.md R133).
The spec marks this rule as derived from R131 and R132. -/
def Obligations.StoreThenLoadRestoresTheRegisters : Prop :=
  ∀ (x : Reg) (s : State) (w : RegFile), s.MemoryCanonical → 0x04F < s.i.toNat → s.i.toNat + x ≤ 0xFFF →
    ∃ t u, exec (.ldMemVx x) s = .next t ∧ exec (.ldVxMem x) { t with v := w } = .next u ∧
      t.i = s.i ∧ u.i = s.i ∧ ∀ k : Reg, k ≤ x → u.v[k] = s.v[k]

/-- The byte at an address once `bytes` are stored at ascending addresses from `base`. -/
def byteAfter (s : State) (base : Nat) (bytes : List Byte) (a : Nat) : Byte :=
  if base ≤ a then bytes.getD (a - base) (s.readByte a) else s.readByte a

/-- A fetch anywhere, from every state whose memory is the one the store left, gives the big-endian word of the
stored bytes, and of the old bytes where nothing was stored. -/
def FetchSeesStored (s t : State) (bytes : List Byte) : Prop :=
  ∀ u : State, u.mem = t.mem → u.params = t.params → u.pc.toNat + 1 ≤ 0xFFF →
    u.fetchWord = some (wordOfBytes (byteAfter s s.i.toNat bytes u.pc.toNat)
      (byteAfter s s.i.toNat bytes (u.pc.toNat + 1)))

/-- Every byte FX33 or FX55 stores is seen by every later fetch that reads its address, as either half of the word,
for every X and every PC (20_memory.md R53; 70_reset_and_hazards.md R206).
The spec's own decision D20 (log 8); the stored range is checked by its decisions D8, D9. -/
def Obligations.StoredWordIsFetched : Prop :=
  ∀ (x : Reg) (s : State), s.MemoryCanonical → 0x04F < s.i.toNat →
    (s.i.toNat + 2 ≤ 0xFFF → ∃ t, exec (.ldB x) s = .next t ∧
      FetchSeesStored s t [BitVec.ofNat 8 ((s.v[x]).toNat / 100), BitVec.ofNat 8 ((s.v[x]).toNat / 10 % 10),
        BitVec.ofNat 8 ((s.v[x]).toNat % 10)]) ∧
    (s.i.toNat + x ≤ 0xFFF → ∃ t, exec (.ldMemVx x) s = .next t ∧
      FetchSeesStored s t (s.v.toList.take (x + 1)))

/-! ## Display -/

/-- CLS: every pixel 0, REDRAW 1, VF and everything else but PC unchanged (43_display.md R141). -/
def Obligations.ClsClearsTheScreen : Prop :=
  ∀ s : State,
    decodeWord 0x00E0#16 = .instr .cls ∧
    ∃ t, exec .cls s = .next t ∧
      t = { s with
        fb := t.fb, redraw := true, pc := s.pc + 2, mode := .running, kpPrev := s.keys, lastStep := some .ok } ∧
      ∀ x y, t.fb.pixel x y = false

/-- Pixel (px, py) is one the sprite of DRW VX, VY, N toggles: some row r < N whose address I + r is at most 0xFFF
has a 1 in the bit of some column col < 8 (bit 7 is column 0) that DRAW_EDGE places there (43_display.md R142,
R143). -/
def SpriteHits (s : State) (x y : Reg) (n : Nibble) (px : Fin 64) (py : Fin 32) : Prop :=
  ∃ r col : Nat, r < n.toNat ∧ col < 8 ∧ s.i.toNat + r ≤ 0xFFF ∧
    (s.readByte (s.i.toNat + r)).getLsbD (7 - col) = true ∧
    match s.params.drawEdge with
    | .wrap => px.val = ((s.v[x]).toNat + col) % 64 ∧ py.val = ((s.v[y]).toNat + r) % 32
    | .clip => px.val = (s.v[x]).toNat % 64 + col ∧ py.val = (s.v[y]).toNat % 32 + r

/-- DRW VX, VY, N: exactly the sprite's pixels are toggled, VF is 1 when one of them was set and else 0, REDRAW is
1, and nothing else but PC changes (43_display.md R143).
The bit order is from general knowledge (G8, log 9), the edge policy the parameter of decision D10; R143's
last corner case is not claimed (log 11). -/
def Obligations.DrwTogglesTheSpritePixels : Prop :=
  ∀ (x y : Reg) (n : Nibble) (s : State),
    decodeWord (wordXYN 0xD#4 x y n) = .instr (.drw x y n) ∧
    ∃ t c, exec (.drw x y n) s = .next t ∧
      t = { s with
        fb := t.fb, v := s.v.set 15 c, redraw := true
        pc := s.pc + 2, mode := .running, kpPrev := s.keys, lastStep := some .ok } ∧
      (∀ px py, SpriteHits s x y n px py → t.fb.pixel px py = !s.fb.pixel px py) ∧
      (∀ px py, ¬ SpriteHits s x y n px py → t.fb.pixel px py = s.fb.pixel px py) ∧
      ((∃ px py, SpriteHits s x y n px py ∧ s.fb.pixel px py = true) → c = 1) ∧
      ((∀ px py, SpriteHits s x y n px py → s.fb.pixel px py = false) → c = 0)

/-- Drawing the same sprite twice at the same place restores the framebuffer (43_display.md R143). -/
def Obligations.DrawingTwiceRestoresTheScreen : Prop :=
  ∀ (x y : Reg) (n : Nibble) (s : State),
    ∃ t u, exec (.drw x y n) s = .next t ∧ exec (.drw x y n) { t with v := s.v } = .next u ∧ u.fb = s.fb

/-! ## Keypad and timers -/

/-- SKP VX (EX9E) skips when key VX is held, SKNP VX (EXA1) when it is not; with VX above 0xF either raises
KEY_INDEX_OUT_OF_RANGE(VX) and changes nothing else (44_keypad_timers.md R154, R155, R156).
The index check is the spec's own decision D13 (log 8). -/
def Obligations.KeySkips : Prop :=
  ∀ (x : Reg) (s : State),
    decodeWord (wordXNN 0xE#4 x 0x9E#8) = .instr (.skp x) ∧
    decodeWord (wordXNN 0xE#4 x 0xA1#8) = .instr (.sknp x) ∧
    (0xF < (s.v[x]).toNat → ∀ i, i = .skp x ∨ i = .sknp x → exec i s = .next { s with
      fault := if s.fault = 0 then 7 else s.fault, halted := true
      lastStep := some (.fault (.keyIndexOutOfRange s.v[x])) }) ∧
    ((s.v[x]).toNat ≤ 0xF →
      exec (.skp x) s = .next { s with
        pc := if s.keys.getLsbD (s.v[x]).toNat = true then s.pc + 4 else s.pc + 2
        mode := .running, kpPrev := s.keys, lastStep := some .ok } ∧
      exec (.sknp x) s = .next { s with
        pc := if s.keys.getLsbD (s.v[x]).toNat = false then s.pc + 4 else s.pc + 2
        mode := .running, kpPrev := s.keys, lastStep := some .ok })

/-- LD VX, DT; LD DT, VX; LD ST, VX: FX07, FX15, FX18; after FX18 the sound output is VX != 0
(44_keypad_timers.md R158, R159, R160). -/
def Obligations.TimerTransfers : Prop :=
  ∀ (x : Reg) (s : State),
    decodeWord (wordXNN 0xF#4 x 0x07#8) = .instr (.ldVxDt x) ∧
    exec (.ldVxDt x) s = .next { s with
      v := s.v.set x s.dt, pc := s.pc + 2, mode := .running, kpPrev := s.keys, lastStep := some .ok } ∧
    decodeWord (wordXNN 0xF#4 x 0x15#8) = .instr (.ldDtVx x) ∧
    exec (.ldDtVx x) s = .next { s with
      dt := s.v[x], pc := s.pc + 2, mode := .running, kpPrev := s.keys, lastStep := some .ok } ∧
    decodeWord (wordXNN 0xF#4 x 0x18#8) = .instr (.ldStVx x) ∧
    ∃ t, exec (.ldStVx x) s = .next t ∧
      t = { s with st := s.v[x], pc := s.pc + 2, mode := .running, kpPrev := s.keys, lastStep := some .ok } ∧
      (t.soundOutput = true ↔ s.v[x] ≠ 0)

/-- Key k is newly pressed for this step: held, and under KEYWAIT_MODE = edge not held at the last OK or BLOCKED
step (44_keypad_timers.md R161). -/
def NewlyPressed (s : State) (k : Key) : Prop :=
  s.keys.getLsbD k = true ∧ (s.params.keywaitMode = .edge → s.kpPrev.getLsbD k = false)

/-- LD VX, K: FX0A. With no new press it is BLOCKED: only MODE and kp_prev change. Otherwise it stores a newly
pressed key, the lowest when KEYWAIT_PICK is lowest (any of them when it is drawn), and completes
(44_keypad_timers.md R161, R162).
The press rule and the choice are the spec's own decision D14 (log 8); the draw is a free value (log 3). -/
def Obligations.KeyWaitBlocksOrTakesANewPress : Prop :=
  ∀ (x : Reg) (s : State),
    decodeWord (wordXNN 0xF#4 x 0x0A#8) = .instr (.ldVxK x) ∧
    ((∀ k, ¬ NewlyPressed s k) → exec (.ldVxK x) s = .next { s with
      mode := .blockedOnKey, kpPrev := s.keys, lastStep := some .blocked }) ∧
    ((∃ k, NewlyPressed s k) → ∃ k, NewlyPressed s k ∧
      (s.params.keywaitPick = .lowest → ∀ j, NewlyPressed s j → k ≤ j) ∧
      exec (.ldVxK x) s = .next { s with
        v := s.v.set x (BitVec.ofNat 8 k), pc := s.pc + 2
        mode := .running, kpPrev := s.keys, lastStep := some .ok })

/-! ## Frames: what no instruction changes but those the rules name -/

/-- The general registers an instruction may write (10_state.md R18). -/
def mayWriteReg : Instr → Reg → Bool
  | .ldImm x _, k | .addImm x _, k | .rnd x _, k | .ldReg x _, k | .orReg x _, k | .andReg x _, k => k == x
  | .xorReg x _, k | .ldVxDt x, k | .ldVxK x, k => k == x
  | .addReg x _, k | .subReg x _, k | .shr x _, k | .subnReg x _, k | .shl x _, k => k == x || k == Reg.vf
  | .ldVxMem x, k => decide (k ≤ x)
  | .drw _ _ _, k | .addI _, k => k == Reg.vf
  | .sys _, _ | .cls, _ | .ret, _ | .jp _, _ | .call _, _ | .seImm _ _, _ | .sneImm _ _, _ | .seReg _ _, _ => false
  | .sneReg _ _, _ | .ldI _, _ | .jpV0 _, _ | .skp _, _ | .sknp _, _ | .ldDtVx _, _ | .ldStVx _, _ => false
  | .ldF _, _ | .ldB _, _ | .ldMemVx _, _ => false

/-- Every general register keeps its value but those R18 names for the instruction (10_state.md R18).
The spec marks R18 as derived from the instruction rules. -/
def Obligations.OnlyNamedRegistersAreWritten : Prop :=
  ∀ (i : Instr) (s t : State), exec i s = .next t → ∀ k : Reg, mayWriteReg i k = false → t.v[k] = s.v[k]

/-- I changes only under ANNN, FX1E and FX29 (10_state.md R20; 42_index_memory.md R124). -/
def Obligations.OnlyThreeInstructionsWriteIndex : Prop :=
  ∀ (i : Instr) (s t : State), exec i s = .next t →
    (∀ nnn, i ≠ .ldI nnn) → (∀ x, i ≠ .addI x) → (∀ x, i ≠ .ldF x) → t.i = s.i

/-- The stack and SP change only under CALL and RET; RET keeps every slot, CALL every slot but slot SP
(10_state.md R24, R25).
That a pop keeps its slot is the spec's own decision D21 (log 8). -/
def Obligations.OnlyCallAndRetTouchTheStack : Prop :=
  ∀ (i : Instr) (s t : State), exec i s = .next t →
    ((∀ nnn, i ≠ .call nnn) → t.stack = s.stack ∧ (i ≠ .ret → t.sp = s.sp)) ∧
    (∀ k : Fin 16, k.val ≠ s.sp.val → t.stack[k] = s.stack[k])

/-- DT changes only under FX15 and ST only under FX18 (10_state.md R26; 44_keypad_timers.md R157). -/
def Obligations.OnlyTimerWritesChangeTimers : Prop :=
  ∀ (i : Instr) (s t : State), exec i s = .next t →
    ((∀ x, i ≠ .ldDtVx x) → t.dt = s.dt) ∧ ((∀ x, i ≠ .ldStVx x) → t.st = s.st)

/-- The framebuffer and REDRAW change only under CLS and DRW, and no instruction clears REDRAW (10_state.md R27,
R28; 43_display.md R140). -/
def Obligations.OnlyClsAndDrwTouchTheScreen : Prop :=
  ∀ (i : Instr) (s t : State), exec i s = .next t →
    (i ≠ .cls → (∀ x y n, i ≠ .drw x y n) → t.fb = s.fb ∧ t.redraw = s.redraw) ∧
    (s.redraw = true → t.redraw = true)

/-- Memory: an instruction other than FX33 and FX55 leaves every byte as before; FX33 leaves every byte outside
I..I+2 and FX55 every byte outside I..I+X, for the I before the instruction (20_memory.md R38;
42_index_memory.md R124). -/
def Obligations.OnlyStoredBytesChange : Prop :=
  ∀ (i : Instr) (s t : State), exec i s = .next t → ∀ a : Nat,
    ((∀ x, i = .ldB x → a < s.indexAddr ∨ s.indexAddr + 2 < a) ∧
      (∀ x, i = .ldMemVx x → a < s.indexAddr ∨ s.indexAddr + x.val < a)) →
    t.readByte a = s.readByte a

/-- The skips (40_control_flow.md R86-R89; 44_keypad_timers.md R155, R156). -/
def isSkip : Instr → Bool
  | .seImm _ _ | .sneImm _ _ | .seReg _ _ | .sneReg _ _ | .skp _ | .sknp _ => true
  | .sys _ | .cls | .ret | .jp _ | .call _ | .ldImm _ _ | .addImm _ _ | .ldReg _ _ | .orReg _ _ => false
  | .andReg _ _ | .xorReg _ _ | .addReg _ _ | .subReg _ _ | .shr _ _ | .subnReg _ _ | .shl _ _ => false
  | .ldI _ | .jpV0 _ | .rnd _ _ | .drw _ _ _ | .ldVxDt _ | .ldVxK _ | .ldDtVx _ | .ldStVx _ => false
  | .addI _ | .ldF _ | .ldB _ | .ldMemVx _ | .ldVxMem _ => false

/-- The control transfers (10_state.md R22(c)). -/
def isTransfer : Instr → Bool
  | .jp _ | .call _ | .ret | .jpV0 _ => true
  | .seImm _ _ | .sneImm _ _ | .seReg _ _ | .sneReg _ _ | .skp _ | .sknp _ => false
  | .sys _ | .cls | .ldImm _ _ | .addImm _ _ | .ldReg _ _ | .orReg _ _ => false
  | .andReg _ _ | .xorReg _ _ | .addReg _ _ | .subReg _ _ | .shr _ _ | .subnReg _ _ | .shl _ _ => false
  | .ldI _ | .rnd _ _ | .drw _ _ _ | .ldVxDt _ | .ldVxK _ | .ldDtVx _ | .ldStVx _ => false
  | .addI _ | .ldF _ | .ldB _ | .ldMemVx _ | .ldVxMem _ => false

/-- PC: a result other than OK leaves it; with OK a skip adds 2 or 4, and every instruction that is neither a skip
nor a control transfer adds 2 (10_state.md R22; 40_control_flow.md R79). -/
def Obligations.PcAdvancesByRule : Prop :=
  ∀ (i : Instr) (s t : State), exec i s = .next t →
    (t.lastStep ≠ some .ok → t.pc = s.pc) ∧
    (t.lastStep = some .ok → isSkip i = true → t.pc = s.pc + 2 ∨ t.pc = s.pc + 4) ∧
    (t.lastStep = some .ok → isSkip i = false → isTransfer i = false → t.pc = s.pc + 2)

/-- The status: an instruction leaves a result of its own; OK makes MODE running, BLOCKED makes it
blocked-on-key, both latch the keypad vector and leave FAULT and HALTED; a fault leaves MODE and kp_prev, puts its
code in FAULT if that was 0 and sets HALTED if it is fatal; only FX0A blocks (10_state.md R30, R31, R32;
60_exceptions.md R172, R173).
These fields and rules are the spec's own decisions D3, D14, D25 (log 8); `lastStep` is the model's (log 1). -/
def Obligations.StatusFollowsTheResult : Prop :=
  ∀ (i : Instr) (s t : State), exec i s = .next t →
    (t.lastStep = some .ok ∧ t.mode = .running ∧ t.kpPrev = s.keys ∧ t.fault = s.fault ∧ t.halted = s.halted) ∨
    (t.lastStep = some .blocked ∧ (∃ x, i = .ldVxK x) ∧
      t.mode = .blockedOnKey ∧ t.kpPrev = s.keys ∧ t.fault = s.fault ∧ t.halted = s.halted) ∨
    (∃ f, t.lastStep = some (.fault f) ∧ t.mode = s.mode ∧ t.kpPrev = s.kpPrev ∧
      t.fault = (if s.fault = 0 then f.code else s.fault) ∧ t.halted = (s.halted || f.fatal))

/-- No instruction changes the keypad vector or the random byte it was given, the host's calls still to come, the
count of calls, or a reply (10_state.md R29; the model's carriers, logs 2 and 3). -/
def Obligations.InstructionsLeaveTheInputs : Prop :=
  ∀ (i : Instr) (s t : State), exec i s = .next t →
    t.keys = s.keys ∧ t.rnd = s.rnd ∧ t.script = s.script ∧ t.draws = s.draws ∧ t.reply = s.reply

/-! ## The host's operations -/

/-- `tick_timers()`: each timer goes down by 1 if nonzero and nothing else changes, whatever MODE and HALTED are
(60_exceptions.md R185).
Acting in every MODE and when halted is the spec's own decision D16 (log 8). -/
def Obligations.TickDecrementsTheTimers : Prop :=
  ∀ (s : State) rest, s.script = .tickTimers :: rest →
    step s = .next { s with
      script := rest, dt := BitVec.ofNat 8 ((s.dt).toNat - 1), st := BitVec.ofNat 8 ((s.st).toNat - 1) }

/-- `load_program(rom)`: a ROM longer than 0xE00 writes nothing; any other is stored at 0x200, every other byte
reads as before, and nothing else of the core changes (70_reset_and_hazards.md R202, R203).
That nothing else changes is the spec's own decision D17 (log 8). -/
def Obligations.LoadProgramWritesTheRom : Prop :=
  ∀ (s : State) rom rest, s.script = .loadProgram rom :: rest →
    (0xE00 < rom.length → step s = .next { s with
      script := rest, reply := some (.romTooLarge rom.length) }) ∧
    (rom.length ≤ 0xE00 → ∃ t, step s = .next t ∧
      t = { s with script := rest, mem := t.mem, reply := some .loadOk } ∧
      (∀ a, a < 0x200 ∨ 0x200 + rom.length ≤ a → t.readByte a = s.readByte a) ∧
      (s.MemoryCanonical → ∀ (k : Nat) (h : k < rom.length), t.readByte (0x200 + k) = rom[k]))

/-- `clear_redraw()` clears REDRAW and changes nothing else; `read_pixel(x, y)` returns the pixel and changes
nothing (10_state.md R28; 60_exceptions.md R189).
The operation `clear_redraw()` is the spec's own decision D22 (log 8). -/
def Obligations.ClearRedrawAndReadPixel : Prop :=
  ∀ (s : State) rest,
    (s.script = .clearRedraw :: rest → step s = .next { s with script := rest, redraw := false }) ∧
    (∀ x y, s.script = .readPixel x y :: rest →
      step s = .next { s with script := rest, reply := some (.pixel (s.fb.pixel x y)) })

/-- `reset()` from any state, a halted core included: every register, timer, pixel and status field at the value
of the reset table, the font at 0x000-0x04F and zero elsewhere (10_state.md R36).
The zeros of 0x050-0xFFF, kp_prev, MODE, HALTED and FAULT are the spec's own decisions D3, D14, D18
(log 8). -/
def Obligations.ResetPutsTheResetTable : Prop :=
  ∀ (s : State) rest, s.script = .reset :: rest → ∃ t, step s = .next t ∧
    (∀ k : Reg, t.v[k] = 0) ∧ t.i = 0 ∧ t.pc = 0x200 ∧ t.sp = 0 ∧ (∀ k : Fin 16, t.stack[k] = 0) ∧
    t.dt = 0 ∧ t.st = 0 ∧ (∀ x y, t.fb.pixel x y = false) ∧ t.redraw = false ∧
    (∀ a : Fin 80, t.readByte a = s.params.fontData[a]) ∧ (∀ a : Nat, 0x050 ≤ a → t.readByte a = 0) ∧
    t.kpPrev = 0 ∧ t.mode = .running ∧ t.halted = false ∧ t.fault = 0

/-- STATUS: bit 0 REDRAW, bit 1 MODE, bit 2 HALTED, bit 3 reads 0, bits 7:4 FAULT; 0 after reset (10_state.md
R33).
The layout is the spec's own decision D3 (log 8). -/
def Obligations.StatusByteLayout : Prop :=
  (∀ s : State,
    s.statusByte.getLsbD 0 = s.redraw ∧ (s.statusByte.getLsbD 1 = true ↔ s.mode = .blockedOnKey) ∧
    s.statusByte.getLsbD 2 = s.halted ∧ s.statusByte.getLsbD 3 = false ∧
    s.statusByte.extractLsb' 4 4 = s.fault) ∧
  State.reset.statusByte = 0

/-! ## Invariants and whole-machine rules -/

/-- Every step keeps memory in its canonical form (the model's form of 20_memory.md R38, log 6). -/
def Obligations.StepKeepsMemoryCanonical : Prop :=
  ∀ s t : State, s.MemoryCanonical → step s = .next t → t.MemoryCanonical

/-- No run changes memory 0x000-0x04F between resets: no step but a `reset` changes a font byte, and every step
keeps the font intact (20_memory.md R48).
The spec marks R48 as derived; the check behind it is its decision D9 (log 8). -/
def Obligations.FontIsNeverOverwritten : Prop :=
  ∀ s t : State, step s = .next t →
    (s.nextCall ≠ .reset → ∀ a : Fin 80, t.readByte a = s.readByte a) ∧ (s.FontIntact → t.FontIntact)

/-- Every step keeps FAULT and HALTED in agreement (10_state.md R32; 60_exceptions.md R171, R174).
The fields are the spec's own decision D3 (log 8). -/
def Obligations.StepKeepsStatusConsistent : Prop :=
  ∀ s t : State, s.StatusConsistent → step s = .next t → t.StatusConsistent

/-- After reset, under every configuration, memory is canonical, the font is intact and the status is consistent;
State.reset is such a state (10_state.md R36).
The canonical form is the model's own (log 6); the status fields are the spec's own decision D3 (log 8). -/
def Obligations.ResetMeetsTheInvariants : Prop :=
  ∀ p : Params, (State.resetWith p).MemoryCanonical ∧ (State.resetWith p).FontIntact ∧
    (State.resetWith p).StatusConsistent ∧ State.reset = State.resetWith State.reset.params

/-- In every state some run reaches, under every configuration and every sequence of host calls, memory is
canonical, the font is intact and the status is consistent (20_memory.md R48; 60_exceptions.md R196).
The canonical form and the list of host calls are the model's own (logs 6 and 2); the status fields and the font
check are the spec's own decisions D3, D9 (log 8). -/
def Obligations.ReachableStatesMeetTheInvariants : Prop :=
  ∀ s : State, s.Reachable → s.MemoryCanonical ∧ s.FontIntact ∧ s.StatusConsistent

/-- No parameter changes while the core runs (00_scope.md R9).
The spec extends this to every parameter by its own decision D10 (log 8); the model holds them in `params`
(log 4). -/
def Obligations.ParametersNeverChange : Prop :=
  ∀ s t : State, step s = .next t → t.params = s.params

/-- FAULT records the first fault since reset, and only reset clears FAULT or HALTED (10_state.md R32). On a halted
core nothing but a reset changes the registers, I, PC, the stack, the framebuffer, kp_prev, MODE or FAULT
(60_exceptions.md R174, R183).
The spec's own decision D3 (log 8). -/
def Obligations.OnlyResetClearsFaultOrMovesAHaltedCore : Prop :=
  ∀ s t : State, step s = .next t → s.nextCall ≠ .reset →
    (s.fault ≠ 0 → t.fault = s.fault) ∧
    (s.halted = true → t.halted = true ∧ t.v = s.v ∧ t.i = s.i ∧ t.pc = s.pc ∧ t.stack = s.stack ∧ t.sp = s.sp ∧
      t.fb = s.fb ∧ t.kpPrev = s.kpPrev ∧ t.mode = s.mode ∧ t.fault = s.fault)

/-- Spin end: where the word at PC is a jump to itself, a step leaves all state unchanged except kp_prev and MODE
(70_reset_and_hazards.md R211).
The definition of this end is the spec's own decision D29 (log 8). -/
def Obligations.SpinStepChangesOnlyModeAndLatch : Prop :=
  ∀ (s : State) keys rnd, s.SpinEnd → s.halted = false → s.nextCall = .step keys rnd →
    step s = .next { s with
      script := s.script.tail, keys := keys, rnd := rnd, draws := s.draws + 1
      mode := .running, kpPrev := keys, lastStep := some .ok }
end

