-- ==== Sys2Proof/Laws/Decode.lean ====
section
/-! SUPPORT. The fields of a word put together from its fields, and back. -/

namespace Sys2Proof

/-! ## Fields of a concatenation -/

theorem extract_append_high {n m : Nat} (x : BitVec n) (y : BitVec m) (k l : Nat) (h : m ≤ k) :
    (x ++ y).extractLsb' k l = x.extractLsb' (k - m) l := by
  ext i hi
  simp [BitVec.getLsbD_append, show ¬(k + i < m) by omega, show k + i - m = k - m + i by omega]

theorem extract_append_low {n m : Nat} (x : BitVec n) (y : BitVec m) (k l : Nat) (h : k + l ≤ m) :
    (x ++ y).extractLsb' k l = y.extractLsb' k l := by
  ext i hi
  simp [BitVec.getLsbD_append, show k + i < m by omega]

theorem extract_all {n : Nat} (x : BitVec n) : x.extractLsb' 0 n = x := by
  ext i hi
  simp

/-! ## Fields of F, NNN -/

@[simp] theorem fieldF_wordNNN (f : Nibble) (nnn : Addr12) : fieldF (wordNNN f nnn) = f :=
  (extract_append_high f nnn 12 4 (by decide)).trans (extract_all f)

@[simp] theorem fieldNNN_wordNNN (f : Nibble) (nnn : Addr12) : fieldNNN (wordNNN f nnn) = nnn :=
  (extract_append_low f nnn 0 12 (by decide)).trans (extract_all nnn)

/-! ## Fields of F, X, NN -/

section XNN
variable (f : Nibble) (x : Reg) (nn : Byte)

@[simp] theorem fieldF_wordXNN : fieldF (wordXNN f x nn) = f :=
  (extract_append_high (f ++ (BitVec.ofFin x : BitVec 4)) nn 12 4 (by decide)).trans
    ((extract_append_high f (BitVec.ofFin x : BitVec 4) 4 4 (by decide)).trans (extract_all f))

@[simp] theorem fieldX_wordXNN : fieldX (wordXNN f x nn) = x :=
  congrArg BitVec.toFin ((extract_append_high (f ++ (BitVec.ofFin x : BitVec 4)) nn 8 4 (by decide)).trans
    ((extract_append_low f (BitVec.ofFin x : BitVec 4) 0 4 (by decide)).trans (extract_all _)))

@[simp] theorem fieldNN_wordXNN : fieldNN (wordXNN f x nn) = nn :=
  (extract_append_low (f ++ (BitVec.ofFin x : BitVec 4)) nn 0 8 (by decide)).trans (extract_all nn)

end XNN

/-! ## Fields of F, X, Y, N -/

section XYN
variable (f : Nibble) (x y : Reg) (n : Nibble)

@[simp] theorem fieldF_wordXYN : fieldF (wordXYN f x y n) = f :=
  (extract_append_high (f ++ (BitVec.ofFin x : BitVec 4) ++ (BitVec.ofFin y : BitVec 4)) n 12 4 (by decide)).trans
    ((extract_append_high (f ++ (BitVec.ofFin x : BitVec 4)) (BitVec.ofFin y : BitVec 4) 8 4 (by decide)).trans
      ((extract_append_high f (BitVec.ofFin x : BitVec 4) 4 4 (by decide)).trans (extract_all f)))

@[simp] theorem fieldX_wordXYN : fieldX (wordXYN f x y n) = x :=
  congrArg BitVec.toFin
    ((extract_append_high (f ++ (BitVec.ofFin x : BitVec 4) ++ (BitVec.ofFin y : BitVec 4)) n 8 4 (by decide)).trans
      ((extract_append_high (f ++ (BitVec.ofFin x : BitVec 4)) (BitVec.ofFin y : BitVec 4) 4 4 (by decide)).trans
        ((extract_append_low f (BitVec.ofFin x : BitVec 4) 0 4 (by decide)).trans (extract_all _))))

@[simp] theorem fieldY_wordXYN : fieldY (wordXYN f x y n) = y :=
  congrArg BitVec.toFin
    ((extract_append_high (f ++ (BitVec.ofFin x : BitVec 4) ++ (BitVec.ofFin y : BitVec 4)) n 4 4 (by decide)).trans
      ((extract_append_low (f ++ (BitVec.ofFin x : BitVec 4)) (BitVec.ofFin y : BitVec 4) 0 4 (by decide)).trans
        (extract_all _)))

@[simp] theorem fieldN_wordXYN : fieldN (wordXYN f x y n) = n :=
  (extract_append_low (f ++ (BitVec.ofFin x : BitVec 4) ++ (BitVec.ofFin y : BitVec 4)) n 0 4 (by decide)).trans
    (extract_all n)

end XYN

/-! ## A word is its fields put together -/

theorem wordNNN_fields (w : Word) : wordNNN (fieldF w) (fieldNNN w) = w := by
  unfold fieldF fieldNNN wordNNN; ext i hi
  simp only [BitVec.getElem_append, BitVec.getElem_extractLsb']
  split
  · simp [← BitVec.getLsbD_eq_getElem]
  · simp [← BitVec.getLsbD_eq_getElem, show 12 + (i - 12) = i by omega]

theorem wordXNN_fields (w : Word) : wordXNN (fieldF w) (fieldX w) (fieldNN w) = w := by
  unfold fieldF fieldX fieldNN wordXNN; ext i hi
  simp only [BitVec.getElem_append, BitVec.getElem_extractLsb', BitVec.ofFin_toFin]
  split
  · simp [← BitVec.getLsbD_eq_getElem]
  · split
    · simp [← BitVec.getLsbD_eq_getElem, show 8 + (i - 8) = i by omega]
    · simp [← BitVec.getLsbD_eq_getElem, show 12 + (i - 8 - 4) = i by omega]

theorem wordXYN_fields (w : Word) : wordXYN (fieldF w) (fieldX w) (fieldY w) (fieldN w) = w := by
  unfold fieldF fieldX fieldY fieldN wordXYN; ext i hi
  simp only [BitVec.getElem_append, BitVec.getElem_extractLsb', BitVec.ofFin_toFin]
  split
  · simp [← BitVec.getLsbD_eq_getElem]
  · split
    · simp [← BitVec.getLsbD_eq_getElem, show 4 + (i - 4) = i by omega]
    · split
      · simp [← BitVec.getLsbD_eq_getElem, show 8 + (i - 4 - 4) = i by omega]
      · simp [← BitVec.getLsbD_eq_getElem, show 12 + (i - 4 - 4 - 4) = i by omega]

/-! ## Bytes -/

@[simp] theorem wordOfBytes_high_low (w : Word) : wordOfBytes (highByte w) (lowByte w) = w := by
  unfold wordOfBytes highByte lowByte; ext i hi
  simp only [BitVec.getElem_append, BitVec.getElem_extractLsb']
  split
  · simp [← BitVec.getLsbD_eq_getElem]
  · simp [← BitVec.getLsbD_eq_getElem, show 8 + (i - 8) = i by omega]

@[simp] theorem highByte_wordOfBytes (hi lo : Byte) : highByte (wordOfBytes hi lo) = hi :=
  (extract_append_high hi lo 8 8 (by decide)).trans (extract_all hi)

@[simp] theorem lowByte_wordOfBytes (hi lo : Byte) : lowByte (wordOfBytes hi lo) = lo :=
  (extract_append_low hi lo 0 8 (by decide)).trans (extract_all lo)

/-- A SYS word is neither the CLS word nor the RET word, when its address is one SYS may have. -/
theorem sysWord_ne {nnn : Addr12} (h : sysAddressOk nnn = true) :
    wordNNN 0x0#4 nnn ≠ 0x00E0#16 ∧ wordNNN 0x0#4 nnn ≠ 0x00EE#16 := by
  have hn : ∀ c : Addr12, wordNNN 0x0#4 nnn = wordNNN 0x0#4 c → nnn = c := fun c hc => by
    rw [← fieldNNN_wordNNN 0x0#4 nnn, hc, fieldNNN_wordNNN]
  have h' : nnn ≠ 0x0E0#12 ∧ nnn ≠ 0x0EE#12 := by simpa [sysAddressOk] using h
  exact ⟨fun e => h'.1 (hn _ e), fun e => h'.2 (hn _ e)⟩

/-! ## The decoder, family by family: cite these instead of unfolding `decodeWord` -/

section Families
variable {w : Word}

theorem decodeWord_family0 (h : fieldF w = 0x0#4) : decodeWord w = decodeFamily0 w := by simp [decodeWord, h]
theorem decodeWord_family1 (h : fieldF w = 0x1#4) : decodeWord w = .instr (.jp (fieldNNN w)) := by simp [decodeWord, h]
theorem decodeWord_family2 (h : fieldF w = 0x2#4) : decodeWord w = .instr (.call (fieldNNN w)) := by simp [decodeWord, h]
theorem decodeWord_family3 (h : fieldF w = 0x3#4) : decodeWord w = .instr (.seImm (fieldX w) (fieldNN w)) := by simp [decodeWord, h]
theorem decodeWord_family4 (h : fieldF w = 0x4#4) : decodeWord w = .instr (.sneImm (fieldX w) (fieldNN w)) := by simp [decodeWord, h]
theorem decodeWord_family5 (h : fieldF w = 0x5#4) : decodeWord w = .instr (.seReg (fieldX w) (fieldY w)) := by simp [decodeWord, h]
theorem decodeWord_family6 (h : fieldF w = 0x6#4) : decodeWord w = .instr (.ldImm (fieldX w) (fieldNN w)) := by simp [decodeWord, h]
theorem decodeWord_family7 (h : fieldF w = 0x7#4) : decodeWord w = .instr (.addImm (fieldX w) (fieldNN w)) := by simp [decodeWord, h]
theorem decodeWord_family8 (h : fieldF w = 0x8#4) : decodeWord w = decodeFamily8 w := by simp [decodeWord, h]
theorem decodeWord_family9 (h : fieldF w = 0x9#4) : decodeWord w = .instr (.sneReg (fieldX w) (fieldY w)) := by simp [decodeWord, h]
theorem decodeWord_familyA (h : fieldF w = 0xA#4) : decodeWord w = .instr (.ldI (fieldNNN w)) := by simp [decodeWord, h]
theorem decodeWord_familyB (h : fieldF w = 0xB#4) : decodeWord w = .instr (.jpV0 (fieldNNN w)) := by simp [decodeWord, h]
theorem decodeWord_familyC (h : fieldF w = 0xC#4) : decodeWord w = .instr (.rnd (fieldX w) (fieldNN w)) := by simp [decodeWord, h]
theorem decodeWord_familyD (h : fieldF w = 0xD#4) : decodeWord w = .instr (.drw (fieldX w) (fieldY w) (fieldN w)) := by simp [decodeWord, h]
theorem decodeWord_familyE (h : fieldF w = 0xE#4) : decodeWord w = decodeFamilyE w := by simp [decodeWord, h]
theorem decodeWord_familyF (h : fieldF w = 0xF#4) : decodeWord w = decodeFamilyF w := by simp [decodeWord, h]

theorem decodeFamily8_unknown (h : fieldN w ∈ [0x8#4, 0x9#4, 0xA#4, 0xB#4, 0xC#4, 0xD#4, 0xF#4]) :
    decodeFamily8 w = .unknown w := by
  simp only [List.mem_cons, List.not_mem_nil, or_false] at h
  rcases h with h | h | h | h | h | h | h <;> simp [decodeFamily8, h]

theorem decodeFamilyE_unknown (h : fieldNN w ∉ [0x9E#8, 0xA1#8]) : decodeFamilyE w = .unknown w := by
  unfold decodeFamilyE; split <;> simp_all

theorem decodeFamilyF_unknown
    (h : fieldNN w ∉ [0x07#8, 0x0A#8, 0x15#8, 0x18#8, 0x1E#8, 0x29#8, 0x33#8, 0x55#8, 0x65#8]) :
    decodeFamilyF w = .unknown w := by
  unfold decodeFamilyF; split <;> simp_all

end Families

end Sys2Proof
end

