-- ==== Sys2Proof/Laws/State.lean ====
section
/-! SUPPORT. One lemma per field per state update: what each update leaves in each field. -/

namespace Sys2Proof.Machine

variable (s : State)

/-! ## State.setV -/

@[simp] theorem State.setV_v (x : Reg) (b : Byte) : (s.setV x b).v = s.v.set x b := rfl
@[simp] theorem State.setV_i (x : Reg) (b : Byte) : (s.setV x b).i = s.i := rfl
@[simp] theorem State.setV_pc (x : Reg) (b : Byte) : (s.setV x b).pc = s.pc := rfl
@[simp] theorem State.setV_stack (x : Reg) (b : Byte) : (s.setV x b).stack = s.stack := rfl
@[simp] theorem State.setV_sp (x : Reg) (b : Byte) : (s.setV x b).sp = s.sp := rfl
@[simp] theorem State.setV_dt (x : Reg) (b : Byte) : (s.setV x b).dt = s.dt := rfl
@[simp] theorem State.setV_st (x : Reg) (b : Byte) : (s.setV x b).st = s.st := rfl
@[simp] theorem State.setV_fb (x : Reg) (b : Byte) : (s.setV x b).fb = s.fb := rfl
@[simp] theorem State.setV_redraw (x : Reg) (b : Byte) : (s.setV x b).redraw = s.redraw := rfl
@[simp] theorem State.setV_mem (x : Reg) (b : Byte) : (s.setV x b).mem = s.mem := rfl
@[simp] theorem State.setV_kpPrev (x : Reg) (b : Byte) : (s.setV x b).kpPrev = s.kpPrev := rfl
@[simp] theorem State.setV_mode (x : Reg) (b : Byte) : (s.setV x b).mode = s.mode := rfl
@[simp] theorem State.setV_halted (x : Reg) (b : Byte) : (s.setV x b).halted = s.halted := rfl
@[simp] theorem State.setV_fault (x : Reg) (b : Byte) : (s.setV x b).fault = s.fault := rfl
@[simp] theorem State.setV_keys (x : Reg) (b : Byte) : (s.setV x b).keys = s.keys := rfl
@[simp] theorem State.setV_rnd (x : Reg) (b : Byte) : (s.setV x b).rnd = s.rnd := rfl
@[simp] theorem State.setV_script (x : Reg) (b : Byte) : (s.setV x b).script = s.script := rfl
@[simp] theorem State.setV_draws (x : Reg) (b : Byte) : (s.setV x b).draws = s.draws := rfl
@[simp] theorem State.setV_params (x : Reg) (b : Byte) : (s.setV x b).params = s.params := rfl
@[simp] theorem State.setV_lastStep (x : Reg) (b : Byte) : (s.setV x b).lastStep = s.lastStep := rfl
@[simp] theorem State.setV_reply (x : Reg) (b : Byte) : (s.setV x b).reply = s.reply := rfl

/-! ## State.loadV -/

@[simp] theorem State.loadV_i (base : Nat) (last : Reg) : (s.loadV base last).i = s.i := rfl
@[simp] theorem State.loadV_pc (base : Nat) (last : Reg) : (s.loadV base last).pc = s.pc := rfl
@[simp] theorem State.loadV_stack (base : Nat) (last : Reg) : (s.loadV base last).stack = s.stack := rfl
@[simp] theorem State.loadV_sp (base : Nat) (last : Reg) : (s.loadV base last).sp = s.sp := rfl
@[simp] theorem State.loadV_dt (base : Nat) (last : Reg) : (s.loadV base last).dt = s.dt := rfl
@[simp] theorem State.loadV_st (base : Nat) (last : Reg) : (s.loadV base last).st = s.st := rfl
@[simp] theorem State.loadV_fb (base : Nat) (last : Reg) : (s.loadV base last).fb = s.fb := rfl
@[simp] theorem State.loadV_redraw (base : Nat) (last : Reg) : (s.loadV base last).redraw = s.redraw := rfl
@[simp] theorem State.loadV_mem (base : Nat) (last : Reg) : (s.loadV base last).mem = s.mem := rfl
@[simp] theorem State.loadV_kpPrev (base : Nat) (last : Reg) : (s.loadV base last).kpPrev = s.kpPrev := rfl
@[simp] theorem State.loadV_mode (base : Nat) (last : Reg) : (s.loadV base last).mode = s.mode := rfl
@[simp] theorem State.loadV_halted (base : Nat) (last : Reg) : (s.loadV base last).halted = s.halted := rfl
@[simp] theorem State.loadV_fault (base : Nat) (last : Reg) : (s.loadV base last).fault = s.fault := rfl
@[simp] theorem State.loadV_keys (base : Nat) (last : Reg) : (s.loadV base last).keys = s.keys := rfl
@[simp] theorem State.loadV_rnd (base : Nat) (last : Reg) : (s.loadV base last).rnd = s.rnd := rfl
@[simp] theorem State.loadV_script (base : Nat) (last : Reg) : (s.loadV base last).script = s.script := rfl
@[simp] theorem State.loadV_draws (base : Nat) (last : Reg) : (s.loadV base last).draws = s.draws := rfl
@[simp] theorem State.loadV_params (base : Nat) (last : Reg) : (s.loadV base last).params = s.params := rfl
@[simp] theorem State.loadV_lastStep (base : Nat) (last : Reg) : (s.loadV base last).lastStep = s.lastStep := rfl
@[simp] theorem State.loadV_reply (base : Nat) (last : Reg) : (s.loadV base last).reply = s.reply := rfl

/-! ## State.storeBytes -/

@[simp] theorem State.storeBytes_v (a : Nat) (bs : List Byte) : (s.storeBytes a bs).v = s.v := rfl
@[simp] theorem State.storeBytes_i (a : Nat) (bs : List Byte) : (s.storeBytes a bs).i = s.i := rfl
@[simp] theorem State.storeBytes_pc (a : Nat) (bs : List Byte) : (s.storeBytes a bs).pc = s.pc := rfl
@[simp] theorem State.storeBytes_stack (a : Nat) (bs : List Byte) : (s.storeBytes a bs).stack = s.stack := rfl
@[simp] theorem State.storeBytes_sp (a : Nat) (bs : List Byte) : (s.storeBytes a bs).sp = s.sp := rfl
@[simp] theorem State.storeBytes_dt (a : Nat) (bs : List Byte) : (s.storeBytes a bs).dt = s.dt := rfl
@[simp] theorem State.storeBytes_st (a : Nat) (bs : List Byte) : (s.storeBytes a bs).st = s.st := rfl
@[simp] theorem State.storeBytes_fb (a : Nat) (bs : List Byte) : (s.storeBytes a bs).fb = s.fb := rfl
@[simp] theorem State.storeBytes_redraw (a : Nat) (bs : List Byte) : (s.storeBytes a bs).redraw = s.redraw := rfl
@[simp] theorem State.storeBytes_mem (a : Nat) (bs : List Byte) : (s.storeBytes a bs).mem = Memory.writeBytes s.params.fontData s.mem a bs := rfl
@[simp] theorem State.storeBytes_kpPrev (a : Nat) (bs : List Byte) : (s.storeBytes a bs).kpPrev = s.kpPrev := rfl
@[simp] theorem State.storeBytes_mode (a : Nat) (bs : List Byte) : (s.storeBytes a bs).mode = s.mode := rfl
@[simp] theorem State.storeBytes_halted (a : Nat) (bs : List Byte) : (s.storeBytes a bs).halted = s.halted := rfl
@[simp] theorem State.storeBytes_fault (a : Nat) (bs : List Byte) : (s.storeBytes a bs).fault = s.fault := rfl
@[simp] theorem State.storeBytes_keys (a : Nat) (bs : List Byte) : (s.storeBytes a bs).keys = s.keys := rfl
@[simp] theorem State.storeBytes_rnd (a : Nat) (bs : List Byte) : (s.storeBytes a bs).rnd = s.rnd := rfl
@[simp] theorem State.storeBytes_script (a : Nat) (bs : List Byte) : (s.storeBytes a bs).script = s.script := rfl
@[simp] theorem State.storeBytes_draws (a : Nat) (bs : List Byte) : (s.storeBytes a bs).draws = s.draws := rfl
@[simp] theorem State.storeBytes_params (a : Nat) (bs : List Byte) : (s.storeBytes a bs).params = s.params := rfl
@[simp] theorem State.storeBytes_lastStep (a : Nat) (bs : List Byte) : (s.storeBytes a bs).lastStep = s.lastStep := rfl
@[simp] theorem State.storeBytes_reply (a : Nat) (bs : List Byte) : (s.storeBytes a bs).reply = s.reply := rfl

/-! ## State.advance -/

@[simp] theorem State.advance_v : (s.advance).v = s.v := rfl
@[simp] theorem State.advance_i : (s.advance).i = s.i := rfl
@[simp] theorem State.advance_pc : (s.advance).pc = s.pc + 2 := rfl
@[simp] theorem State.advance_stack : (s.advance).stack = s.stack := rfl
@[simp] theorem State.advance_sp : (s.advance).sp = s.sp := rfl
@[simp] theorem State.advance_dt : (s.advance).dt = s.dt := rfl
@[simp] theorem State.advance_st : (s.advance).st = s.st := rfl
@[simp] theorem State.advance_fb : (s.advance).fb = s.fb := rfl
@[simp] theorem State.advance_redraw : (s.advance).redraw = s.redraw := rfl
@[simp] theorem State.advance_mem : (s.advance).mem = s.mem := rfl
@[simp] theorem State.advance_kpPrev : (s.advance).kpPrev = s.kpPrev := rfl
@[simp] theorem State.advance_mode : (s.advance).mode = s.mode := rfl
@[simp] theorem State.advance_halted : (s.advance).halted = s.halted := rfl
@[simp] theorem State.advance_fault : (s.advance).fault = s.fault := rfl
@[simp] theorem State.advance_keys : (s.advance).keys = s.keys := rfl
@[simp] theorem State.advance_rnd : (s.advance).rnd = s.rnd := rfl
@[simp] theorem State.advance_script : (s.advance).script = s.script := rfl
@[simp] theorem State.advance_draws : (s.advance).draws = s.draws := rfl
@[simp] theorem State.advance_params : (s.advance).params = s.params := rfl
@[simp] theorem State.advance_lastStep : (s.advance).lastStep = s.lastStep := rfl
@[simp] theorem State.advance_reply : (s.advance).reply = s.reply := rfl

/-! ## State.skipIf -/

@[simp] theorem State.skipIf_v (c : Bool) : (s.skipIf c).v = s.v := rfl
@[simp] theorem State.skipIf_i (c : Bool) : (s.skipIf c).i = s.i := rfl
@[simp] theorem State.skipIf_pc (c : Bool) : (s.skipIf c).pc = if c then s.pc + 4 else s.pc + 2 := rfl
@[simp] theorem State.skipIf_stack (c : Bool) : (s.skipIf c).stack = s.stack := rfl
@[simp] theorem State.skipIf_sp (c : Bool) : (s.skipIf c).sp = s.sp := rfl
@[simp] theorem State.skipIf_dt (c : Bool) : (s.skipIf c).dt = s.dt := rfl
@[simp] theorem State.skipIf_st (c : Bool) : (s.skipIf c).st = s.st := rfl
@[simp] theorem State.skipIf_fb (c : Bool) : (s.skipIf c).fb = s.fb := rfl
@[simp] theorem State.skipIf_redraw (c : Bool) : (s.skipIf c).redraw = s.redraw := rfl
@[simp] theorem State.skipIf_mem (c : Bool) : (s.skipIf c).mem = s.mem := rfl
@[simp] theorem State.skipIf_kpPrev (c : Bool) : (s.skipIf c).kpPrev = s.kpPrev := rfl
@[simp] theorem State.skipIf_mode (c : Bool) : (s.skipIf c).mode = s.mode := rfl
@[simp] theorem State.skipIf_halted (c : Bool) : (s.skipIf c).halted = s.halted := rfl
@[simp] theorem State.skipIf_fault (c : Bool) : (s.skipIf c).fault = s.fault := rfl
@[simp] theorem State.skipIf_keys (c : Bool) : (s.skipIf c).keys = s.keys := rfl
@[simp] theorem State.skipIf_rnd (c : Bool) : (s.skipIf c).rnd = s.rnd := rfl
@[simp] theorem State.skipIf_script (c : Bool) : (s.skipIf c).script = s.script := rfl
@[simp] theorem State.skipIf_draws (c : Bool) : (s.skipIf c).draws = s.draws := rfl
@[simp] theorem State.skipIf_params (c : Bool) : (s.skipIf c).params = s.params := rfl
@[simp] theorem State.skipIf_lastStep (c : Bool) : (s.skipIf c).lastStep = s.lastStep := rfl
@[simp] theorem State.skipIf_reply (c : Bool) : (s.skipIf c).reply = s.reply := rfl

/-! ## State.jumpTo -/

@[simp] theorem State.jumpTo_v (target : Word) : (s.jumpTo target).v = s.v := rfl
@[simp] theorem State.jumpTo_i (target : Word) : (s.jumpTo target).i = s.i := rfl
@[simp] theorem State.jumpTo_pc (target : Word) : (s.jumpTo target).pc = target := rfl
@[simp] theorem State.jumpTo_stack (target : Word) : (s.jumpTo target).stack = s.stack := rfl
@[simp] theorem State.jumpTo_sp (target : Word) : (s.jumpTo target).sp = s.sp := rfl
@[simp] theorem State.jumpTo_dt (target : Word) : (s.jumpTo target).dt = s.dt := rfl
@[simp] theorem State.jumpTo_st (target : Word) : (s.jumpTo target).st = s.st := rfl
@[simp] theorem State.jumpTo_fb (target : Word) : (s.jumpTo target).fb = s.fb := rfl
@[simp] theorem State.jumpTo_redraw (target : Word) : (s.jumpTo target).redraw = s.redraw := rfl
@[simp] theorem State.jumpTo_mem (target : Word) : (s.jumpTo target).mem = s.mem := rfl
@[simp] theorem State.jumpTo_kpPrev (target : Word) : (s.jumpTo target).kpPrev = s.kpPrev := rfl
@[simp] theorem State.jumpTo_mode (target : Word) : (s.jumpTo target).mode = s.mode := rfl
@[simp] theorem State.jumpTo_halted (target : Word) : (s.jumpTo target).halted = s.halted := rfl
@[simp] theorem State.jumpTo_fault (target : Word) : (s.jumpTo target).fault = s.fault := rfl
@[simp] theorem State.jumpTo_keys (target : Word) : (s.jumpTo target).keys = s.keys := rfl
@[simp] theorem State.jumpTo_rnd (target : Word) : (s.jumpTo target).rnd = s.rnd := rfl
@[simp] theorem State.jumpTo_script (target : Word) : (s.jumpTo target).script = s.script := rfl
@[simp] theorem State.jumpTo_draws (target : Word) : (s.jumpTo target).draws = s.draws := rfl
@[simp] theorem State.jumpTo_params (target : Word) : (s.jumpTo target).params = s.params := rfl
@[simp] theorem State.jumpTo_lastStep (target : Word) : (s.jumpTo target).lastStep = s.lastStep := rfl
@[simp] theorem State.jumpTo_reply (target : Word) : (s.jumpTo target).reply = s.reply := rfl

/-! ## State.raise -/

@[simp] theorem State.raise_v (f : StepFault) : (s.raise f).v = s.v := rfl
@[simp] theorem State.raise_i (f : StepFault) : (s.raise f).i = s.i := rfl
@[simp] theorem State.raise_pc (f : StepFault) : (s.raise f).pc = s.pc := rfl
@[simp] theorem State.raise_stack (f : StepFault) : (s.raise f).stack = s.stack := rfl
@[simp] theorem State.raise_sp (f : StepFault) : (s.raise f).sp = s.sp := rfl
@[simp] theorem State.raise_dt (f : StepFault) : (s.raise f).dt = s.dt := rfl
@[simp] theorem State.raise_st (f : StepFault) : (s.raise f).st = s.st := rfl
@[simp] theorem State.raise_fb (f : StepFault) : (s.raise f).fb = s.fb := rfl
@[simp] theorem State.raise_redraw (f : StepFault) : (s.raise f).redraw = s.redraw := rfl
@[simp] theorem State.raise_mem (f : StepFault) : (s.raise f).mem = s.mem := rfl
@[simp] theorem State.raise_kpPrev (f : StepFault) : (s.raise f).kpPrev = s.kpPrev := rfl
@[simp] theorem State.raise_mode (f : StepFault) : (s.raise f).mode = s.mode := rfl
@[simp] theorem State.raise_halted (f : StepFault) : (s.raise f).halted = (s.halted || f.fatal) := rfl
@[simp] theorem State.raise_fault (f : StepFault) : (s.raise f).fault = if s.fault = 0 then f.code else s.fault := rfl
@[simp] theorem State.raise_keys (f : StepFault) : (s.raise f).keys = s.keys := rfl
@[simp] theorem State.raise_rnd (f : StepFault) : (s.raise f).rnd = s.rnd := rfl
@[simp] theorem State.raise_script (f : StepFault) : (s.raise f).script = s.script := rfl
@[simp] theorem State.raise_draws (f : StepFault) : (s.raise f).draws = s.draws := rfl
@[simp] theorem State.raise_params (f : StepFault) : (s.raise f).params = s.params := rfl
@[simp] theorem State.raise_lastStep (f : StepFault) : (s.raise f).lastStep = some (.fault f) := rfl
@[simp] theorem State.raise_reply (f : StepFault) : (s.raise f).reply = s.reply := rfl

/-! ## State.completed -/

@[simp] theorem State.completed_v : (s.completed).v = s.v := rfl
@[simp] theorem State.completed_i : (s.completed).i = s.i := rfl
@[simp] theorem State.completed_pc : (s.completed).pc = s.pc := rfl
@[simp] theorem State.completed_stack : (s.completed).stack = s.stack := rfl
@[simp] theorem State.completed_sp : (s.completed).sp = s.sp := rfl
@[simp] theorem State.completed_dt : (s.completed).dt = s.dt := rfl
@[simp] theorem State.completed_st : (s.completed).st = s.st := rfl
@[simp] theorem State.completed_fb : (s.completed).fb = s.fb := rfl
@[simp] theorem State.completed_redraw : (s.completed).redraw = s.redraw := rfl
@[simp] theorem State.completed_mem : (s.completed).mem = s.mem := rfl
@[simp] theorem State.completed_kpPrev : (s.completed).kpPrev = s.keys := rfl
@[simp] theorem State.completed_mode : (s.completed).mode = .running := rfl
@[simp] theorem State.completed_halted : (s.completed).halted = s.halted := rfl
@[simp] theorem State.completed_fault : (s.completed).fault = s.fault := rfl
@[simp] theorem State.completed_keys : (s.completed).keys = s.keys := rfl
@[simp] theorem State.completed_rnd : (s.completed).rnd = s.rnd := rfl
@[simp] theorem State.completed_script : (s.completed).script = s.script := rfl
@[simp] theorem State.completed_draws : (s.completed).draws = s.draws := rfl
@[simp] theorem State.completed_params : (s.completed).params = s.params := rfl
@[simp] theorem State.completed_lastStep : (s.completed).lastStep = some .ok := rfl
@[simp] theorem State.completed_reply : (s.completed).reply = s.reply := rfl

/-! ## State.blocked -/

@[simp] theorem State.blocked_v : (s.blocked).v = s.v := rfl
@[simp] theorem State.blocked_i : (s.blocked).i = s.i := rfl
@[simp] theorem State.blocked_pc : (s.blocked).pc = s.pc := rfl
@[simp] theorem State.blocked_stack : (s.blocked).stack = s.stack := rfl
@[simp] theorem State.blocked_sp : (s.blocked).sp = s.sp := rfl
@[simp] theorem State.blocked_dt : (s.blocked).dt = s.dt := rfl
@[simp] theorem State.blocked_st : (s.blocked).st = s.st := rfl
@[simp] theorem State.blocked_fb : (s.blocked).fb = s.fb := rfl
@[simp] theorem State.blocked_redraw : (s.blocked).redraw = s.redraw := rfl
@[simp] theorem State.blocked_mem : (s.blocked).mem = s.mem := rfl
@[simp] theorem State.blocked_kpPrev : (s.blocked).kpPrev = s.keys := rfl
@[simp] theorem State.blocked_mode : (s.blocked).mode = .blockedOnKey := rfl
@[simp] theorem State.blocked_halted : (s.blocked).halted = s.halted := rfl
@[simp] theorem State.blocked_fault : (s.blocked).fault = s.fault := rfl
@[simp] theorem State.blocked_keys : (s.blocked).keys = s.keys := rfl
@[simp] theorem State.blocked_rnd : (s.blocked).rnd = s.rnd := rfl
@[simp] theorem State.blocked_script : (s.blocked).script = s.script := rfl
@[simp] theorem State.blocked_draws : (s.blocked).draws = s.draws := rfl
@[simp] theorem State.blocked_params : (s.blocked).params = s.params := rfl
@[simp] theorem State.blocked_lastStep : (s.blocked).lastStep = some .blocked := rfl
@[simp] theorem State.blocked_reply : (s.blocked).reply = s.reply := rfl

/-! ## State.stayHalted -/

@[simp] theorem State.stayHalted_v : (s.stayHalted).v = s.v := rfl
@[simp] theorem State.stayHalted_i : (s.stayHalted).i = s.i := rfl
@[simp] theorem State.stayHalted_pc : (s.stayHalted).pc = s.pc := rfl
@[simp] theorem State.stayHalted_stack : (s.stayHalted).stack = s.stack := rfl
@[simp] theorem State.stayHalted_sp : (s.stayHalted).sp = s.sp := rfl
@[simp] theorem State.stayHalted_dt : (s.stayHalted).dt = s.dt := rfl
@[simp] theorem State.stayHalted_st : (s.stayHalted).st = s.st := rfl
@[simp] theorem State.stayHalted_fb : (s.stayHalted).fb = s.fb := rfl
@[simp] theorem State.stayHalted_redraw : (s.stayHalted).redraw = s.redraw := rfl
@[simp] theorem State.stayHalted_mem : (s.stayHalted).mem = s.mem := rfl
@[simp] theorem State.stayHalted_kpPrev : (s.stayHalted).kpPrev = s.kpPrev := rfl
@[simp] theorem State.stayHalted_mode : (s.stayHalted).mode = s.mode := rfl
@[simp] theorem State.stayHalted_halted : (s.stayHalted).halted = s.halted := rfl
@[simp] theorem State.stayHalted_fault : (s.stayHalted).fault = s.fault := rfl
@[simp] theorem State.stayHalted_keys : (s.stayHalted).keys = s.keys := rfl
@[simp] theorem State.stayHalted_rnd : (s.stayHalted).rnd = s.rnd := rfl
@[simp] theorem State.stayHalted_script : (s.stayHalted).script = s.script := rfl
@[simp] theorem State.stayHalted_draws : (s.stayHalted).draws = s.draws := rfl
@[simp] theorem State.stayHalted_params : (s.stayHalted).params = s.params := rfl
@[simp] theorem State.stayHalted_lastStep : (s.stayHalted).lastStep = some .halted := rfl
@[simp] theorem State.stayHalted_reply : (s.stayHalted).reply = s.reply := rfl

/-! ## State.done -/

@[simp] theorem State.done_v : (s.done).v = s.v := rfl
@[simp] theorem State.done_i : (s.done).i = s.i := rfl
@[simp] theorem State.done_pc : (s.done).pc = s.pc + 2 := rfl
@[simp] theorem State.done_stack : (s.done).stack = s.stack := rfl
@[simp] theorem State.done_sp : (s.done).sp = s.sp := rfl
@[simp] theorem State.done_dt : (s.done).dt = s.dt := rfl
@[simp] theorem State.done_st : (s.done).st = s.st := rfl
@[simp] theorem State.done_fb : (s.done).fb = s.fb := rfl
@[simp] theorem State.done_redraw : (s.done).redraw = s.redraw := rfl
@[simp] theorem State.done_mem : (s.done).mem = s.mem := rfl
@[simp] theorem State.done_kpPrev : (s.done).kpPrev = s.keys := rfl
@[simp] theorem State.done_mode : (s.done).mode = .running := rfl
@[simp] theorem State.done_halted : (s.done).halted = s.halted := rfl
@[simp] theorem State.done_fault : (s.done).fault = s.fault := rfl
@[simp] theorem State.done_keys : (s.done).keys = s.keys := rfl
@[simp] theorem State.done_rnd : (s.done).rnd = s.rnd := rfl
@[simp] theorem State.done_script : (s.done).script = s.script := rfl
@[simp] theorem State.done_draws : (s.done).draws = s.draws := rfl
@[simp] theorem State.done_params : (s.done).params = s.params := rfl
@[simp] theorem State.done_lastStep : (s.done).lastStep = some .ok := rfl
@[simp] theorem State.done_reply : (s.done).reply = s.reply := rfl

/-! ## State.present -/

@[simp] theorem State.present_v (k : Keys) (r : Byte) : (s.present k r).v = s.v := rfl
@[simp] theorem State.present_i (k : Keys) (r : Byte) : (s.present k r).i = s.i := rfl
@[simp] theorem State.present_pc (k : Keys) (r : Byte) : (s.present k r).pc = s.pc := rfl
@[simp] theorem State.present_stack (k : Keys) (r : Byte) : (s.present k r).stack = s.stack := rfl
@[simp] theorem State.present_sp (k : Keys) (r : Byte) : (s.present k r).sp = s.sp := rfl
@[simp] theorem State.present_dt (k : Keys) (r : Byte) : (s.present k r).dt = s.dt := rfl
@[simp] theorem State.present_st (k : Keys) (r : Byte) : (s.present k r).st = s.st := rfl
@[simp] theorem State.present_fb (k : Keys) (r : Byte) : (s.present k r).fb = s.fb := rfl
@[simp] theorem State.present_redraw (k : Keys) (r : Byte) : (s.present k r).redraw = s.redraw := rfl
@[simp] theorem State.present_mem (k : Keys) (r : Byte) : (s.present k r).mem = s.mem := rfl
@[simp] theorem State.present_kpPrev (k : Keys) (r : Byte) : (s.present k r).kpPrev = s.kpPrev := rfl
@[simp] theorem State.present_mode (k : Keys) (r : Byte) : (s.present k r).mode = s.mode := rfl
@[simp] theorem State.present_halted (k : Keys) (r : Byte) : (s.present k r).halted = s.halted := rfl
@[simp] theorem State.present_fault (k : Keys) (r : Byte) : (s.present k r).fault = s.fault := rfl
@[simp] theorem State.present_keys (k : Keys) (r : Byte) : (s.present k r).keys = k := rfl
@[simp] theorem State.present_rnd (k : Keys) (r : Byte) : (s.present k r).rnd = r := rfl
@[simp] theorem State.present_script (k : Keys) (r : Byte) : (s.present k r).script = s.script := rfl
@[simp] theorem State.present_draws (k : Keys) (r : Byte) : (s.present k r).draws = s.draws + 1 := rfl
@[simp] theorem State.present_params (k : Keys) (r : Byte) : (s.present k r).params = s.params := rfl
@[simp] theorem State.present_lastStep (k : Keys) (r : Byte) : (s.present k r).lastStep = s.lastStep := rfl
@[simp] theorem State.present_reply (k : Keys) (r : Byte) : (s.present k r).reply = s.reply := rfl

/-! ## State.takeCall -/

@[simp] theorem State.takeCall_v : (s.takeCall).v = s.v := rfl
@[simp] theorem State.takeCall_i : (s.takeCall).i = s.i := rfl
@[simp] theorem State.takeCall_pc : (s.takeCall).pc = s.pc := rfl
@[simp] theorem State.takeCall_stack : (s.takeCall).stack = s.stack := rfl
@[simp] theorem State.takeCall_sp : (s.takeCall).sp = s.sp := rfl
@[simp] theorem State.takeCall_dt : (s.takeCall).dt = s.dt := rfl
@[simp] theorem State.takeCall_st : (s.takeCall).st = s.st := rfl
@[simp] theorem State.takeCall_fb : (s.takeCall).fb = s.fb := rfl
@[simp] theorem State.takeCall_redraw : (s.takeCall).redraw = s.redraw := rfl
@[simp] theorem State.takeCall_mem : (s.takeCall).mem = s.mem := rfl
@[simp] theorem State.takeCall_kpPrev : (s.takeCall).kpPrev = s.kpPrev := rfl
@[simp] theorem State.takeCall_mode : (s.takeCall).mode = s.mode := rfl
@[simp] theorem State.takeCall_halted : (s.takeCall).halted = s.halted := rfl
@[simp] theorem State.takeCall_fault : (s.takeCall).fault = s.fault := rfl
@[simp] theorem State.takeCall_keys : (s.takeCall).keys = s.keys := rfl
@[simp] theorem State.takeCall_rnd : (s.takeCall).rnd = s.rnd := rfl
@[simp] theorem State.takeCall_script : (s.takeCall).script = s.script.tail := rfl
@[simp] theorem State.takeCall_draws : (s.takeCall).draws = s.draws := rfl
@[simp] theorem State.takeCall_params : (s.takeCall).params = s.params := rfl
@[simp] theorem State.takeCall_lastStep : (s.takeCall).lastStep = s.lastStep := rfl
@[simp] theorem State.takeCall_reply : (s.takeCall).reply = s.reply := rfl

/-! ## State.tickTimers -/

@[simp] theorem State.tickTimers_v : (s.tickTimers).v = s.v := rfl
@[simp] theorem State.tickTimers_i : (s.tickTimers).i = s.i := rfl
@[simp] theorem State.tickTimers_pc : (s.tickTimers).pc = s.pc := rfl
@[simp] theorem State.tickTimers_stack : (s.tickTimers).stack = s.stack := rfl
@[simp] theorem State.tickTimers_sp : (s.tickTimers).sp = s.sp := rfl
@[simp] theorem State.tickTimers_dt : (s.tickTimers).dt = countDown s.dt := rfl
@[simp] theorem State.tickTimers_st : (s.tickTimers).st = countDown s.st := rfl
@[simp] theorem State.tickTimers_fb : (s.tickTimers).fb = s.fb := rfl
@[simp] theorem State.tickTimers_redraw : (s.tickTimers).redraw = s.redraw := rfl
@[simp] theorem State.tickTimers_mem : (s.tickTimers).mem = s.mem := rfl
@[simp] theorem State.tickTimers_kpPrev : (s.tickTimers).kpPrev = s.kpPrev := rfl
@[simp] theorem State.tickTimers_mode : (s.tickTimers).mode = s.mode := rfl
@[simp] theorem State.tickTimers_halted : (s.tickTimers).halted = s.halted := rfl
@[simp] theorem State.tickTimers_fault : (s.tickTimers).fault = s.fault := rfl
@[simp] theorem State.tickTimers_keys : (s.tickTimers).keys = s.keys := rfl
@[simp] theorem State.tickTimers_rnd : (s.tickTimers).rnd = s.rnd := rfl
@[simp] theorem State.tickTimers_script : (s.tickTimers).script = s.script := rfl
@[simp] theorem State.tickTimers_draws : (s.tickTimers).draws = s.draws := rfl
@[simp] theorem State.tickTimers_params : (s.tickTimers).params = s.params := rfl
@[simp] theorem State.tickTimers_lastStep : (s.tickTimers).lastStep = s.lastStep := rfl
@[simp] theorem State.tickTimers_reply : (s.tickTimers).reply = s.reply := rfl

/-! ## State.clearRedraw -/

@[simp] theorem State.clearRedraw_v : (s.clearRedraw).v = s.v := rfl
@[simp] theorem State.clearRedraw_i : (s.clearRedraw).i = s.i := rfl
@[simp] theorem State.clearRedraw_pc : (s.clearRedraw).pc = s.pc := rfl
@[simp] theorem State.clearRedraw_stack : (s.clearRedraw).stack = s.stack := rfl
@[simp] theorem State.clearRedraw_sp : (s.clearRedraw).sp = s.sp := rfl
@[simp] theorem State.clearRedraw_dt : (s.clearRedraw).dt = s.dt := rfl
@[simp] theorem State.clearRedraw_st : (s.clearRedraw).st = s.st := rfl
@[simp] theorem State.clearRedraw_fb : (s.clearRedraw).fb = s.fb := rfl
@[simp] theorem State.clearRedraw_redraw : (s.clearRedraw).redraw = false := rfl
@[simp] theorem State.clearRedraw_mem : (s.clearRedraw).mem = s.mem := rfl
@[simp] theorem State.clearRedraw_kpPrev : (s.clearRedraw).kpPrev = s.kpPrev := rfl
@[simp] theorem State.clearRedraw_mode : (s.clearRedraw).mode = s.mode := rfl
@[simp] theorem State.clearRedraw_halted : (s.clearRedraw).halted = s.halted := rfl
@[simp] theorem State.clearRedraw_fault : (s.clearRedraw).fault = s.fault := rfl
@[simp] theorem State.clearRedraw_keys : (s.clearRedraw).keys = s.keys := rfl
@[simp] theorem State.clearRedraw_rnd : (s.clearRedraw).rnd = s.rnd := rfl
@[simp] theorem State.clearRedraw_script : (s.clearRedraw).script = s.script := rfl
@[simp] theorem State.clearRedraw_draws : (s.clearRedraw).draws = s.draws := rfl
@[simp] theorem State.clearRedraw_params : (s.clearRedraw).params = s.params := rfl
@[simp] theorem State.clearRedraw_lastStep : (s.clearRedraw).lastStep = s.lastStep := rfl
@[simp] theorem State.clearRedraw_reply : (s.clearRedraw).reply = s.reply := rfl

/-! ## State.readPixel -/

@[simp] theorem State.readPixel_v (x : Fin 64) (y : Fin 32) : (s.readPixel x y).v = s.v := rfl
@[simp] theorem State.readPixel_i (x : Fin 64) (y : Fin 32) : (s.readPixel x y).i = s.i := rfl
@[simp] theorem State.readPixel_pc (x : Fin 64) (y : Fin 32) : (s.readPixel x y).pc = s.pc := rfl
@[simp] theorem State.readPixel_stack (x : Fin 64) (y : Fin 32) : (s.readPixel x y).stack = s.stack := rfl
@[simp] theorem State.readPixel_sp (x : Fin 64) (y : Fin 32) : (s.readPixel x y).sp = s.sp := rfl
@[simp] theorem State.readPixel_dt (x : Fin 64) (y : Fin 32) : (s.readPixel x y).dt = s.dt := rfl
@[simp] theorem State.readPixel_st (x : Fin 64) (y : Fin 32) : (s.readPixel x y).st = s.st := rfl
@[simp] theorem State.readPixel_fb (x : Fin 64) (y : Fin 32) : (s.readPixel x y).fb = s.fb := rfl
@[simp] theorem State.readPixel_redraw (x : Fin 64) (y : Fin 32) : (s.readPixel x y).redraw = s.redraw := rfl
@[simp] theorem State.readPixel_mem (x : Fin 64) (y : Fin 32) : (s.readPixel x y).mem = s.mem := rfl
@[simp] theorem State.readPixel_kpPrev (x : Fin 64) (y : Fin 32) : (s.readPixel x y).kpPrev = s.kpPrev := rfl
@[simp] theorem State.readPixel_mode (x : Fin 64) (y : Fin 32) : (s.readPixel x y).mode = s.mode := rfl
@[simp] theorem State.readPixel_halted (x : Fin 64) (y : Fin 32) : (s.readPixel x y).halted = s.halted := rfl
@[simp] theorem State.readPixel_fault (x : Fin 64) (y : Fin 32) : (s.readPixel x y).fault = s.fault := rfl
@[simp] theorem State.readPixel_keys (x : Fin 64) (y : Fin 32) : (s.readPixel x y).keys = s.keys := rfl
@[simp] theorem State.readPixel_rnd (x : Fin 64) (y : Fin 32) : (s.readPixel x y).rnd = s.rnd := rfl
@[simp] theorem State.readPixel_script (x : Fin 64) (y : Fin 32) : (s.readPixel x y).script = s.script := rfl
@[simp] theorem State.readPixel_draws (x : Fin 64) (y : Fin 32) : (s.readPixel x y).draws = s.draws := rfl
@[simp] theorem State.readPixel_params (x : Fin 64) (y : Fin 32) : (s.readPixel x y).params = s.params := rfl
@[simp] theorem State.readPixel_lastStep (x : Fin 64) (y : Fin 32) : (s.readPixel x y).lastStep = s.lastStep := rfl
@[simp] theorem State.readPixel_reply (x : Fin 64) (y : Fin 32) : (s.readPixel x y).reply = some (.pixel (s.fb.pixel x y)) := rfl

/-! ## State.writeAlu and State.writeShift write general registers only -/

@[simp] theorem State.writeAlu_i (x : Reg) (r f : Byte) : (s.writeAlu x r f).i = s.i := by unfold State.writeAlu; split <;> rfl
@[simp] theorem State.writeAlu_pc (x : Reg) (r f : Byte) : (s.writeAlu x r f).pc = s.pc := by unfold State.writeAlu; split <;> rfl
@[simp] theorem State.writeAlu_stack (x : Reg) (r f : Byte) : (s.writeAlu x r f).stack = s.stack := by unfold State.writeAlu; split <;> rfl
@[simp] theorem State.writeAlu_sp (x : Reg) (r f : Byte) : (s.writeAlu x r f).sp = s.sp := by unfold State.writeAlu; split <;> rfl
@[simp] theorem State.writeAlu_dt (x : Reg) (r f : Byte) : (s.writeAlu x r f).dt = s.dt := by unfold State.writeAlu; split <;> rfl
@[simp] theorem State.writeAlu_st (x : Reg) (r f : Byte) : (s.writeAlu x r f).st = s.st := by unfold State.writeAlu; split <;> rfl
@[simp] theorem State.writeAlu_fb (x : Reg) (r f : Byte) : (s.writeAlu x r f).fb = s.fb := by unfold State.writeAlu; split <;> rfl
@[simp] theorem State.writeAlu_redraw (x : Reg) (r f : Byte) : (s.writeAlu x r f).redraw = s.redraw := by unfold State.writeAlu; split <;> rfl
@[simp] theorem State.writeAlu_mem (x : Reg) (r f : Byte) : (s.writeAlu x r f).mem = s.mem := by unfold State.writeAlu; split <;> rfl
@[simp] theorem State.writeAlu_kpPrev (x : Reg) (r f : Byte) : (s.writeAlu x r f).kpPrev = s.kpPrev := by unfold State.writeAlu; split <;> rfl
@[simp] theorem State.writeAlu_mode (x : Reg) (r f : Byte) : (s.writeAlu x r f).mode = s.mode := by unfold State.writeAlu; split <;> rfl
@[simp] theorem State.writeAlu_halted (x : Reg) (r f : Byte) : (s.writeAlu x r f).halted = s.halted := by unfold State.writeAlu; split <;> rfl
@[simp] theorem State.writeAlu_fault (x : Reg) (r f : Byte) : (s.writeAlu x r f).fault = s.fault := by unfold State.writeAlu; split <;> rfl
@[simp] theorem State.writeAlu_keys (x : Reg) (r f : Byte) : (s.writeAlu x r f).keys = s.keys := by unfold State.writeAlu; split <;> rfl
@[simp] theorem State.writeAlu_rnd (x : Reg) (r f : Byte) : (s.writeAlu x r f).rnd = s.rnd := by unfold State.writeAlu; split <;> rfl
@[simp] theorem State.writeAlu_script (x : Reg) (r f : Byte) : (s.writeAlu x r f).script = s.script := by unfold State.writeAlu; split <;> rfl
@[simp] theorem State.writeAlu_draws (x : Reg) (r f : Byte) : (s.writeAlu x r f).draws = s.draws := by unfold State.writeAlu; split <;> rfl
@[simp] theorem State.writeAlu_params (x : Reg) (r f : Byte) : (s.writeAlu x r f).params = s.params := by unfold State.writeAlu; split <;> rfl
@[simp] theorem State.writeAlu_lastStep (x : Reg) (r f : Byte) : (s.writeAlu x r f).lastStep = s.lastStep := by unfold State.writeAlu; split <;> rfl
@[simp] theorem State.writeAlu_reply (x : Reg) (r f : Byte) : (s.writeAlu x r f).reply = s.reply := by unfold State.writeAlu; split <;> rfl
@[simp] theorem State.writeShift_i (x : Reg) (g d : Byte → Byte) : (s.writeShift x g d).i = s.i := by unfold State.writeShift; split <;> rfl
@[simp] theorem State.writeShift_pc (x : Reg) (g d : Byte → Byte) : (s.writeShift x g d).pc = s.pc := by unfold State.writeShift; split <;> rfl
@[simp] theorem State.writeShift_stack (x : Reg) (g d : Byte → Byte) : (s.writeShift x g d).stack = s.stack := by unfold State.writeShift; split <;> rfl
@[simp] theorem State.writeShift_sp (x : Reg) (g d : Byte → Byte) : (s.writeShift x g d).sp = s.sp := by unfold State.writeShift; split <;> rfl
@[simp] theorem State.writeShift_dt (x : Reg) (g d : Byte → Byte) : (s.writeShift x g d).dt = s.dt := by unfold State.writeShift; split <;> rfl
@[simp] theorem State.writeShift_st (x : Reg) (g d : Byte → Byte) : (s.writeShift x g d).st = s.st := by unfold State.writeShift; split <;> rfl
@[simp] theorem State.writeShift_fb (x : Reg) (g d : Byte → Byte) : (s.writeShift x g d).fb = s.fb := by unfold State.writeShift; split <;> rfl
@[simp] theorem State.writeShift_redraw (x : Reg) (g d : Byte → Byte) : (s.writeShift x g d).redraw = s.redraw := by unfold State.writeShift; split <;> rfl
@[simp] theorem State.writeShift_mem (x : Reg) (g d : Byte → Byte) : (s.writeShift x g d).mem = s.mem := by unfold State.writeShift; split <;> rfl
@[simp] theorem State.writeShift_kpPrev (x : Reg) (g d : Byte → Byte) : (s.writeShift x g d).kpPrev = s.kpPrev := by unfold State.writeShift; split <;> rfl
@[simp] theorem State.writeShift_mode (x : Reg) (g d : Byte → Byte) : (s.writeShift x g d).mode = s.mode := by unfold State.writeShift; split <;> rfl
@[simp] theorem State.writeShift_halted (x : Reg) (g d : Byte → Byte) : (s.writeShift x g d).halted = s.halted := by unfold State.writeShift; split <;> rfl
@[simp] theorem State.writeShift_fault (x : Reg) (g d : Byte → Byte) : (s.writeShift x g d).fault = s.fault := by unfold State.writeShift; split <;> rfl
@[simp] theorem State.writeShift_keys (x : Reg) (g d : Byte → Byte) : (s.writeShift x g d).keys = s.keys := by unfold State.writeShift; split <;> rfl
@[simp] theorem State.writeShift_rnd (x : Reg) (g d : Byte → Byte) : (s.writeShift x g d).rnd = s.rnd := by unfold State.writeShift; split <;> rfl
@[simp] theorem State.writeShift_script (x : Reg) (g d : Byte → Byte) : (s.writeShift x g d).script = s.script := by unfold State.writeShift; split <;> rfl
@[simp] theorem State.writeShift_draws (x : Reg) (g d : Byte → Byte) : (s.writeShift x g d).draws = s.draws := by unfold State.writeShift; split <;> rfl
@[simp] theorem State.writeShift_params (x : Reg) (g d : Byte → Byte) : (s.writeShift x g d).params = s.params := by unfold State.writeShift; split <;> rfl
@[simp] theorem State.writeShift_lastStep (x : Reg) (g d : Byte → Byte) : (s.writeShift x g d).lastStep = s.lastStep := by unfold State.writeShift; split <;> rfl
@[simp] theorem State.writeShift_reply (x : Reg) (g d : Byte → Byte) : (s.writeShift x g d).reply = s.reply := by unfold State.writeShift; split <;> rfl

/-! ## State.loadProgram writes memory and the reply only -/

@[simp] theorem State.loadProgram_v (rom : List Byte) : (s.loadProgram rom).v = s.v := by unfold State.loadProgram; split <;> rfl
@[simp] theorem State.loadProgram_i (rom : List Byte) : (s.loadProgram rom).i = s.i := by unfold State.loadProgram; split <;> rfl
@[simp] theorem State.loadProgram_pc (rom : List Byte) : (s.loadProgram rom).pc = s.pc := by unfold State.loadProgram; split <;> rfl
@[simp] theorem State.loadProgram_stack (rom : List Byte) : (s.loadProgram rom).stack = s.stack := by unfold State.loadProgram; split <;> rfl
@[simp] theorem State.loadProgram_sp (rom : List Byte) : (s.loadProgram rom).sp = s.sp := by unfold State.loadProgram; split <;> rfl
@[simp] theorem State.loadProgram_dt (rom : List Byte) : (s.loadProgram rom).dt = s.dt := by unfold State.loadProgram; split <;> rfl
@[simp] theorem State.loadProgram_st (rom : List Byte) : (s.loadProgram rom).st = s.st := by unfold State.loadProgram; split <;> rfl
@[simp] theorem State.loadProgram_fb (rom : List Byte) : (s.loadProgram rom).fb = s.fb := by unfold State.loadProgram; split <;> rfl
@[simp] theorem State.loadProgram_redraw (rom : List Byte) : (s.loadProgram rom).redraw = s.redraw := by unfold State.loadProgram; split <;> rfl
@[simp] theorem State.loadProgram_kpPrev (rom : List Byte) : (s.loadProgram rom).kpPrev = s.kpPrev := by unfold State.loadProgram; split <;> rfl
@[simp] theorem State.loadProgram_mode (rom : List Byte) : (s.loadProgram rom).mode = s.mode := by unfold State.loadProgram; split <;> rfl
@[simp] theorem State.loadProgram_halted (rom : List Byte) : (s.loadProgram rom).halted = s.halted := by unfold State.loadProgram; split <;> rfl
@[simp] theorem State.loadProgram_fault (rom : List Byte) : (s.loadProgram rom).fault = s.fault := by unfold State.loadProgram; split <;> rfl
@[simp] theorem State.loadProgram_keys (rom : List Byte) : (s.loadProgram rom).keys = s.keys := by unfold State.loadProgram; split <;> rfl
@[simp] theorem State.loadProgram_rnd (rom : List Byte) : (s.loadProgram rom).rnd = s.rnd := by unfold State.loadProgram; split <;> rfl
@[simp] theorem State.loadProgram_script (rom : List Byte) : (s.loadProgram rom).script = s.script := by unfold State.loadProgram; split <;> rfl
@[simp] theorem State.loadProgram_draws (rom : List Byte) : (s.loadProgram rom).draws = s.draws := by unfold State.loadProgram; split <;> rfl
@[simp] theorem State.loadProgram_params (rom : List Byte) : (s.loadProgram rom).params = s.params := by unfold State.loadProgram; split <;> rfl
@[simp] theorem State.loadProgram_lastStep (rom : List Byte) : (s.loadProgram rom).lastStep = s.lastStep := by unfold State.loadProgram; split <;> rfl

/-! ## A register file after a write -/

theorem State.setV_getElem (x k : Reg) (b : Byte) : (s.setV x b).v[k] = if k = x then b else s.v[k] := by
  simp only [State.setV_v, Fin.getElem_fin, Vector.getElem_set, Fin.val_inj, eq_comm]

theorem State.getV_eq (x : Reg) : s.getV x = s.v[x] := rfl

theorem State.loadV_getElem (base : Nat) (last k : Reg) :
    (s.loadV base last).v[k] = if k ≤ last then s.readByte (base + k) else s.v[k] := by
  simp [State.loadV]

theorem State.readByte_of_mem_eq (s t : State) (hm : t.mem = s.mem) (hp : t.params = s.params) (a : Nat) :
    t.readByte a = s.readByte a := by
  unfold State.readByte; rw [hm, hp]

end Sys2Proof.Machine
end

