-- ==== Sys2Proof/Laws/Memory.lean ====
section
/-! SUPPORT. Memory: a read after a write, and the canonical form. -/

namespace Sys2Proof.Machine

variable (font : FontData)

@[simp] theorem Memory.read_nil (a : Nat) : Memory.read font [] a = resetByte font a := rfl

theorem Memory.read_cons (k : Nat) (c : Byte) (rest : Memory) (a : Nat) :
    Memory.read font ((k, c) :: rest) a = if k = a then c else Memory.read font rest a := rfl

theorem Memory.wfFrom_cons (lo k : Nat) (c : Byte) (rest : Memory) :
    Memory.wfFrom font lo ((k, c) :: rest) = true ↔
      (lo ≤ k ∧ k < memSize ∧ c ≠ resetByte font k) ∧ Memory.wfFrom font (k + 1) rest = true := by
  simp [Memory.wfFrom, and_assoc]

theorem Memory.wfFrom_mono {lo lo' : Nat} (h : lo' ≤ lo) :
    ∀ {m : Memory}, Memory.wfFrom font lo m = true → Memory.wfFrom font lo' m = true
  | [], _ => rfl
  | (k, c) :: rest, hw => by
    rw [Memory.wfFrom_cons] at hw ⊢
    exact ⟨⟨h.trans hw.1.1, hw.1.2⟩, hw.2⟩

/-- An address below every listed one reads as at reset. -/
theorem Memory.read_below {a : Nat} :
    ∀ {m : Memory} {lo : Nat}, Memory.wfFrom font lo m = true → a < lo → Memory.read font m a = resetByte font a
  | [], _, _, _ => rfl
  | (k, c) :: rest, lo, hw, ha => by
    rw [Memory.wfFrom_cons] at hw
    rw [Memory.read_cons, if_neg (by omega)]
    exact Memory.read_below hw.2 (by omega)

/-- A write leaves every other address alone, in any memory. -/
theorem Memory.read_write_ne {a a' : Nat} (h : a' ≠ a) (b : Byte) :
    ∀ m : Memory, Memory.read font (Memory.write font m a b) a' = Memory.read font m a'
  | [] => by
    unfold Memory.write
    split
    · rfl
    · rw [Memory.read_cons, if_neg (Ne.symm h)]
  | (k, c) :: rest => by
    unfold Memory.write
    split
    · split
      · rfl
      · rw [Memory.read_cons, if_neg (Ne.symm h)]
    · split
      · next hk =>
        subst hk
        split
        · rw [Memory.read_cons, if_neg (Ne.symm h)]
        · rw [Memory.read_cons, Memory.read_cons, if_neg (Ne.symm h), if_neg (Ne.symm h)]
      · rw [Memory.read_cons, Memory.read_cons, Memory.read_write_ne h b rest]

/-- In canonical memory a write is read back. -/
theorem Memory.read_write_self (a : Nat) (b : Byte) :
    ∀ {m : Memory} {lo : Nat}, Memory.wfFrom font lo m = true → Memory.read font (Memory.write font m a b) a = b
  | [], _, _ => by
    unfold Memory.write
    split
    · next h => exact h.symm
    · rw [Memory.read_cons, if_pos rfl]
  | (k, c) :: rest, lo, hw => by
    have hw' := (Memory.wfFrom_cons font lo k c rest).1 hw
    unfold Memory.write
    split
    · next hlt =>
      split
      · next h =>
        rw [Memory.read_cons, if_neg (by omega), Memory.read_below font hw'.2 (by omega), h]
      · rw [Memory.read_cons, if_pos rfl]
    · split
      · next hk =>
        subst hk
        split
        · next h => rw [Memory.read_below font hw'.2 (by omega), h]
        · rw [Memory.read_cons, if_pos rfl]
      · next hk => rw [Memory.read_cons, if_neg hk, Memory.read_write_self a b hw'.2]

/-- A write inside the address space keeps the canonical form. -/
theorem Memory.wfFrom_write {a : Nat} (ha : a < memSize) (b : Byte) :
    ∀ {m : Memory} {lo : Nat}, lo ≤ a → Memory.wfFrom font lo m = true →
      Memory.wfFrom font lo (Memory.write font m a b) = true
  | [], lo, hlo, _ => by
    unfold Memory.write
    split
    · rfl
    · next h => rw [Memory.wfFrom_cons]; exact ⟨⟨hlo, ha, h⟩, rfl⟩
  | (k, c) :: rest, lo, hlo, hw => by
    have hw' := (Memory.wfFrom_cons font lo k c rest).1 hw
    unfold Memory.write
    split
    · next hlt =>
      split
      · exact hw
      · next h =>
        rw [Memory.wfFrom_cons]
        refine ⟨⟨hlo, ha, h⟩, ?_⟩
        rw [Memory.wfFrom_cons]
        exact ⟨⟨hlt, hw'.1.2⟩, hw'.2⟩
    · split
      · next hk =>
        subst hk
        split
        · exact Memory.wfFrom_mono font (by omega) hw'.2
        · next h => rw [Memory.wfFrom_cons]; exact ⟨⟨hlo, ha, h⟩, hw'.2⟩
      · rw [Memory.wfFrom_cons]
        exact ⟨hw'.1, Memory.wfFrom_write ha b (by omega) hw'.2⟩

theorem Memory.wf_write {m : Memory} (hw : Memory.wf font m = true) {a : Nat} (ha : a < memSize) (b : Byte) :
    Memory.wf font (Memory.write font m a b) = true := Memory.wfFrom_write font ha b (Nat.zero_le a) hw

/-- Writing a block inside the address space keeps the canonical form. -/
theorem Memory.wf_writeBytes :
    ∀ (bs : List Byte) {m : Memory} {a : Nat}, Memory.wf font m = true → a + bs.length ≤ memSize →
      Memory.wf font (Memory.writeBytes font m a bs) = true
  | [], _, _, hw, _ => hw
  | b :: bs, m, a, hw, h => by
    rw [List.length_cons] at h
    exact Memory.wf_writeBytes bs (Memory.wf_write font hw (by omega) b) (by omega)

/-- A block write leaves every address outside the block alone, in any memory. -/
theorem Memory.read_writeBytes_outside {a' : Nat} :
    ∀ (bs : List Byte) (m : Memory) (a : Nat), a' < a ∨ a + bs.length ≤ a' →
      Memory.read font (Memory.writeBytes font m a bs) a' = Memory.read font m a'
  | [], _, _, _ => rfl
  | b :: bs, m, a, h => by
    rw [List.length_cons] at h
    rw [Memory.writeBytes, Memory.read_writeBytes_outside bs _ (a + 1) (by omega),
      Memory.read_write_ne font (by omega)]

/-- In canonical memory a block inside the address space is read back. -/
theorem Memory.read_writeBytes_inside :
    ∀ (bs : List Byte) {m : Memory} {a : Nat}, Memory.wf font m = true → a + bs.length ≤ memSize →
      ∀ (k : Nat) (hk : k < bs.length), Memory.read font (Memory.writeBytes font m a bs) (a + k) = bs[k]
  | b :: bs, m, a, hw, h, 0, _ => by
    rw [Memory.writeBytes, Memory.read_writeBytes_outside font bs _ (a + 1) (by omega)]
    exact Memory.read_write_self font a b hw
  | b :: bs, m, a, hw, h, k + 1, hk => by
    rw [List.length_cons] at h hk
    rw [Memory.writeBytes, show a + (k + 1) = (a + 1) + k by omega,
      Memory.read_writeBytes_inside bs (Memory.wf_write font hw (by omega) b) (by omega) k (by omega)]
    rfl

/-! ## The same for the state -/

theorem State.storeBytes_canonical {s : State} (hs : s.MemoryCanonical) {a : Nat} {bs : List Byte}
    (h : a + bs.length ≤ memSize) : (s.storeBytes a bs).MemoryCanonical :=
  Memory.wf_writeBytes _ bs hs h

theorem State.readByte_storeBytes_outside (s : State) {a a' : Nat} {bs : List Byte}
    (h : a' < a ∨ a + bs.length ≤ a') : (s.storeBytes a bs).readByte a' = s.readByte a' :=
  Memory.read_writeBytes_outside _ bs _ a h

theorem State.readByte_storeBytes_inside {s : State} (hs : s.MemoryCanonical) {a : Nat} {bs : List Byte}
    (h : a + bs.length ≤ memSize) (k : Nat) (hk : k < bs.length) :
    (s.storeBytes a bs).readByte (a + k) = bs[k] :=
  Memory.read_writeBytes_inside _ bs hs h k hk

/-- Everything a block store does to the byte at any address: the stored byte in the block, the old one elsewhere. -/
theorem State.readByte_storeBytes {s : State} (hs : s.MemoryCanonical) {a : Nat} {bs : List Byte}
    (h : a + bs.length ≤ memSize) (a' : Nat) :
    (s.storeBytes a bs).readByte a' = if a ≤ a' then bs.getD (a' - a) (s.readByte a') else s.readByte a' := by
  split
  · next ha =>
    by_cases hk : a' - a < bs.length
    · have := State.readByte_storeBytes_inside hs h (a' - a) hk
      rw [show a + (a' - a) = a' by omega] at this
      simp [this, hk]
    · rw [State.readByte_storeBytes_outside s (by omega), List.getD_eq_default _ _ (by omega)]
  · exact State.readByte_storeBytes_outside s (by omega)

theorem resetByte_font (font : FontData) (a : Fin 80) : resetByte font a = font[a] := by
  simp [resetByte]

theorem State.reset_canonical (p : Params) : (State.resetWith p).MemoryCanonical := rfl

/-! ## The address checks -/

theorem checkRange_eq_none {base count : Nat} : checkRange base count = none ↔ base + count ≤ 0x1000 ∨ count = 0 := by
  simp only [checkRange, Option.map_eq_none_iff, List.find?_eq_none, List.mem_range, decide_eq_true_eq]
  constructor
  · intro h
    by_cases hc : count = 0
    · exact .inr hc
    · have := h (count - 1) (by omega); omega
  · intro h k hk; omega

theorem checkNoFont_eq_none {base count : Nat} : checkNoFont base count = none ↔ 0x04F < base ∨ count = 0 := by
  simp only [checkNoFont, Option.map_eq_none_iff, List.find?_eq_none, List.mem_range, decide_eq_true_eq]
  constructor
  · intro h
    by_cases hc : count = 0
    · exact .inr hc
    · have := h 0 (by omega); omega
  · intro h k hk; omega

/-- The address a failing range check names is the lowest above 0xFFF. -/
theorem checkRange_eq_some {base count : Nat} (h : 0x1000 < base + count) (hc : 0 < count) :
    checkRange base count = some (.memoryOutOfRange (max base 0x1000)) := by
  have hf : (List.range count).find? (fun k => decide (0xFFF < base + k)) = some (0x1000 - base) := by
    rw [List.find?_range_eq_some]
    refine ⟨by simp; omega, by simp; omega, fun j hj => by simp; omega⟩
  rw [checkRange, hf, Option.map_some, show base + (0x1000 - base) = max base 0x1000 by omega]

theorem checkNoFont_eq_some {base count : Nat} (h : base ≤ 0x04F) (hc : 0 < count) :
    checkNoFont base count = some (.fontWrite base) := by
  have hf : (List.range count).find? (fun k => decide (base + k ≤ 0x04F)) = some 0 := by
    rw [List.find?_range_eq_some]
    exact ⟨by simp; omega, by simp; omega, fun j hj => absurd hj (Nat.not_lt_zero j)⟩
  rw [checkNoFont, hf, Option.map_some, Nat.add_zero]

end Sys2Proof.Machine
end

