-- ==== Sys2Proof/Laws/Exec.lean ====
section
/-! SUPPORT. What an instruction can do, said once: every meaning answers a next state that is a raise, a
block, or a completion which keeps everything an instruction never touches and stores at most one block at I. -/

namespace Sys2Proof.Machine

/-- What every completing instruction keeps, and how it may store. -/
structure CompletesFrom (s u : State) : Prop where
  keys : u.keys = s.keys
  rnd : u.rnd = s.rnd
  script : u.script = s.script
  draws : u.draws = s.draws
  params : u.params = s.params
  reply : u.reply = s.reply
  fault : u.fault = s.fault
  halted : u.halted = s.halted
  mem : u.mem = s.mem ∨ ∃ bs : List Byte, 0x04F < s.indexAddr ∧ s.indexAddr + bs.length ≤ memSize ∧
    u.mem = Memory.writeBytes s.params.fontData s.mem s.indexAddr bs

/-- A completion that stores nothing. -/
theorem CompletesFrom.ofMemSame {s u : State} (h1 : u.keys = s.keys) (h2 : u.rnd = s.rnd) (h3 : u.script = s.script)
    (h4 : u.draws = s.draws) (h5 : u.params = s.params) (h6 : u.reply = s.reply) (h7 : u.fault = s.fault)
    (h8 : u.halted = s.halted) (h9 : u.mem = s.mem) : CompletesFrom s u :=
  ⟨h1, h2, h3, h4, h5, h6, h7, h8, .inl h9⟩

/-- The checks of FX33 and FX55 pass exactly when the block lies above the font and inside memory. -/
theorem checks_eq_none {base count : Nat} (hc : 0 < count) :
    (checkRange base count).or (checkNoFont base count) = none ↔ 0x04F < base ∧ base + count ≤ 0x1000 := by
  rw [Option.or_eq_none_iff, checkRange_eq_none, checkNoFont_eq_none]
  omega

@[simp] theorem bcdDigits_length (b : Byte) : (bcdDigits b).length = 3 := rfl

@[simp] theorem State.firstV_length (s : State) (x : Reg) : (s.firstV x).length = x.val + 1 := by
  simp only [State.firstV, List.length_take, Vector.length_toList]
  omega

theorem State.firstV_getElem (s : State) (x k : Reg) (h : k.val < (s.firstV x).length) : (s.firstV x)[k.val] = s.v[k] := by
  simp [State.firstV]

/-- Everything an instruction can do to `s`, ending in `t`. -/
def InstrOutcome (s t : State) : Prop :=
  (∃ f, t = s.raise f) ∨ t = s.blocked ∨ ∃ u, t = u.completed ∧ CompletesFrom s u

theorem InstrOutcome.raise (s : State) (f : StepFault) : InstrOutcome s (s.raise f) := .inl ⟨f, rfl⟩

theorem InstrOutcome.blocked (s : State) : InstrOutcome s s.blocked := .inr (.inl rfl)

theorem InstrOutcome.completed {s u : State} (h : CompletesFrom s u) : InstrOutcome s u.completed :=
  .inr (.inr ⟨u, rfl, h⟩)

theorem CompletesFrom.advance {s u : State} (h : CompletesFrom s u) : CompletesFrom s u.advance :=
  ⟨h.keys, h.rnd, h.script, h.draws, h.params, h.reply, h.fault, h.halted, h.mem⟩

theorem InstrOutcome.done {s u : State} (h : CompletesFrom s u) : InstrOutcome s u.done := .completed h.advance

theorem CompletesFrom.refl (s : State) : CompletesFrom s s := .ofMemSame rfl rfl rfl rfl rfl rfl rfl rfl rfl

theorem CompletesFrom.setV {s u : State} (h : CompletesFrom s u) (x : Reg) (b : Byte) : CompletesFrom s (u.setV x b) :=
  ⟨h.keys, h.rnd, h.script, h.draws, h.params, h.reply, h.fault, h.halted, h.mem⟩

theorem CompletesFrom.skipIf (s : State) (c : Bool) : CompletesFrom s (s.skipIf c) :=
  .ofMemSame rfl rfl rfl rfl rfl rfl rfl rfl rfl

theorem CompletesFrom.jumpTo (s : State) (w : Word) : CompletesFrom s (s.jumpTo w) :=
  .ofMemSame rfl rfl rfl rfl rfl rfl rfl rfl rfl

theorem CompletesFrom.loadV (s : State) (base : Nat) (last : Reg) : CompletesFrom s (s.loadV base last) :=
  .ofMemSame (by simp) (by simp) (by simp) (by simp) (by simp) (by simp) (by simp) (by simp) (by simp)

theorem CompletesFrom.writeAlu (s : State) (x : Reg) (r f : Byte) : CompletesFrom s (s.writeAlu x r f) :=
  .ofMemSame (by simp) (by simp) (by simp) (by simp) (by simp) (by simp) (by simp) (by simp) (by simp)

theorem CompletesFrom.writeShift (s : State) (x : Reg) (g d : Byte → Byte) : CompletesFrom s (s.writeShift x g d) :=
  .ofMemSame (by simp) (by simp) (by simp) (by simp) (by simp) (by simp) (by simp) (by simp) (by simp)

theorem CompletesFrom.storeBytes {s : State} {bs : List Byte} (h1 : 0x04F < s.indexAddr)
    (h2 : s.indexAddr + bs.length ≤ memSize) : CompletesFrom s (s.storeBytes s.indexAddr bs) :=
  ⟨rfl, rfl, rfl, rfl, rfl, rfl, rfl, rfl, .inr ⟨bs, h1, h2, rfl⟩⟩

/-! ## Every instruction, by family -/

theorem execSys_outcome (nnn : Addr12) (s : State) : ∃ t, execSys nnn s = .next t ∧ InstrOutcome s t := by
  refine ⟨_, rfl, ?_⟩
  split
  · exact .raise s _
  · exact .done (.refl s)

theorem execRet_outcome (s : State) : ∃ t, execRet s = .next t ∧ InstrOutcome s t := by
  refine ⟨_, rfl, ?_⟩
  split
  · exact .completed (.ofMemSame rfl rfl rfl rfl rfl rfl rfl rfl rfl)
  · exact .raise s _

theorem execCall_outcome (nnn : Addr12) (s : State) : ∃ t, execCall nnn s = .next t ∧ InstrOutcome s t := by
  refine ⟨_, rfl, ?_⟩
  split
  · exact .completed (.ofMemSame rfl rfl rfl rfl rfl rfl rfl rfl rfl)
  · exact .raise s _

theorem execDrw_outcome (x y : Reg) (n : Nibble) (s : State) : ∃ t, execDrw x y n s = .next t ∧ InstrOutcome s t :=
  have h : ∀ fb, CompletesFrom s { s with fb := fb, redraw := true } := fun _ =>
    .ofMemSame rfl rfl rfl rfl rfl rfl rfl rfl rfl
  ⟨_, rfl, .done (.setV (h _) _ _)⟩

theorem execAddI_outcome (x : Reg) (s : State) : ∃ t, execAddI x s = .next t ∧ InstrOutcome s t :=
  have h : ∀ i, CompletesFrom s { s with i := i } := fun _ => .ofMemSame rfl rfl rfl rfl rfl rfl rfl rfl rfl
  ⟨_, rfl, .done (.setV (h _) _ _)⟩

theorem execSkp_outcome (x : Reg) (s : State) : ∃ t, execSkp x s = .next t ∧ InstrOutcome s t := by
  refine ⟨_, rfl, ?_⟩
  split
  · exact .raise s _
  · exact .completed (.skipIf s _)

theorem execSknp_outcome (x : Reg) (s : State) : ∃ t, execSknp x s = .next t ∧ InstrOutcome s t := by
  refine ⟨_, rfl, ?_⟩
  split
  · exact .raise s _
  · exact .completed (.skipIf s _)

theorem execLdVxK_outcome (x : Reg) (s : State) : ∃ t, execLdVxK x s = .next t ∧ InstrOutcome s t := by
  refine ⟨_, rfl, ?_⟩
  split
  · exact .blocked s
  · exact .done (.setV (.refl s) _ _)

theorem execLdB_outcome (x : Reg) (s : State) : ∃ t, execLdB x s = .next t ∧ InstrOutcome s t := by
  refine ⟨_, rfl, ?_⟩
  split
  · exact .raise s _
  · next hc =>
    rw [checks_eq_none (by decide)] at hc
    exact .done (.storeBytes hc.1 hc.2)

theorem execLdMemVx_outcome (x : Reg) (s : State) : ∃ t, execLdMemVx x s = .next t ∧ InstrOutcome s t := by
  refine ⟨_, rfl, ?_⟩
  split
  · exact .raise s _
  · next hc =>
    rw [checks_eq_none (Nat.succ_pos _)] at hc
    exact .done (.storeBytes hc.1 (by rw [State.firstV_length]; exact hc.2))

theorem execLdVxMem_outcome (x : Reg) (s : State) : ∃ t, execLdVxMem x s = .next t ∧ InstrOutcome s t := by
  refine ⟨_, rfl, ?_⟩
  split
  · exact .raise s _
  · exact .done (.loadV s _ _)

/-- Every instruction answers a next state, and it is one of the three ends. -/
theorem exec_outcome (i : Instr) (s : State) : ∃ t, exec i s = .next t ∧ InstrOutcome s t := by
  cases i with
  | sys nnn => exact execSys_outcome nnn s
  | ret => exact execRet_outcome s
  | call nnn => exact execCall_outcome nnn s
  | drw x y n => exact execDrw_outcome x y n s
  | skp x => exact execSkp_outcome x s
  | sknp x => exact execSknp_outcome x s
  | ldVxK x => exact execLdVxK_outcome x s
  | ldB x => exact execLdB_outcome x s
  | ldMemVx x => exact execLdMemVx_outcome x s
  | ldVxMem x => exact execLdVxMem_outcome x s
  | jp nnn => exact ⟨_, rfl, .completed (.jumpTo s _)⟩
  | jpV0 nnn => exact ⟨_, rfl, .completed (.jumpTo s _)⟩
  | seImm x nn => exact ⟨_, rfl, .completed (.skipIf s _)⟩
  | sneImm x nn => exact ⟨_, rfl, .completed (.skipIf s _)⟩
  | seReg x y => exact ⟨_, rfl, .completed (.skipIf s _)⟩
  | sneReg x y => exact ⟨_, rfl, .completed (.skipIf s _)⟩
  | addReg x y => exact ⟨_, rfl, .done (.writeAlu s x _ _)⟩
  | subReg x y => exact ⟨_, rfl, .done (.writeAlu s x _ _)⟩
  | subnReg x y => exact ⟨_, rfl, .done (.writeAlu s x _ _)⟩
  | shr x y => exact ⟨_, rfl, .done (.writeShift s x _ _)⟩
  | shl x y => exact ⟨_, rfl, .done (.writeShift s x _ _)⟩
  | ldImm x nn => exact ⟨_, rfl, .done (.setV (.refl s) _ _)⟩
  | addImm x nn => exact ⟨_, rfl, .done (.setV (.refl s) _ _)⟩
  | ldReg x y => exact ⟨_, rfl, .done (.setV (.refl s) _ _)⟩
  | orReg x y => exact ⟨_, rfl, .done (.setV (.refl s) _ _)⟩
  | andReg x y => exact ⟨_, rfl, .done (.setV (.refl s) _ _)⟩
  | xorReg x y => exact ⟨_, rfl, .done (.setV (.refl s) _ _)⟩
  | rnd x nn => exact ⟨_, rfl, .done (.setV (.refl s) _ _)⟩
  | ldVxDt x => exact ⟨_, rfl, .done (.setV (.refl s) _ _)⟩
  | addI x => exact execAddI_outcome x s
  | cls => exact ⟨_, rfl, .done (.ofMemSame rfl rfl rfl rfl rfl rfl rfl rfl rfl)⟩
  | ldI nnn => exact ⟨_, rfl, .done (.ofMemSame rfl rfl rfl rfl rfl rfl rfl rfl rfl)⟩
  | ldF x => exact ⟨_, rfl, .done (.ofMemSame rfl rfl rfl rfl rfl rfl rfl rfl rfl)⟩
  | ldDtVx x => exact ⟨_, rfl, .done (.ofMemSame rfl rfl rfl rfl rfl rfl rfl rfl rfl)⟩
  | ldStVx x => exact ⟨_, rfl, .done (.ofMemSame rfl rfl rfl rfl rfl rfl rfl rfl rfl)⟩

/-- Everything an instruction can do. -/
theorem exec_cases {i : Instr} {s t : State} (h : exec i s = .next t) :
    (∃ f, t = s.raise f) ∨ t = s.blocked ∨ ∃ u, t = u.completed ∧ CompletesFrom s u := by
  obtain ⟨t', ht', ho⟩ := exec_outcome i s
  rw [ht'] at h
  cases h
  exact ho

end Sys2Proof.Machine
end

