-- ==== Sys2Proof/Laws/Flags.lean ====
section
/-! SUPPORT. The flags as numbers, and the register file the two flag-writing operations leave. -/

namespace Sys2Proof.Machine

theorem byteOfBool_decide (p : Prop) [Decidable p] : byteOfBool (decide p) = if p then 1 else 0 := by
  by_cases h : p <;> simp [byteOfBool, h]

theorem carryFlag_eq (a b : Byte) : carryFlag a b = if 255 < a.toNat + b.toNat then 1 else 0 := byteOfBool_decide _

theorem noBorrowFlag_eq (a b : Byte) : noBorrowFlag a b = if b.toNat ≤ a.toNat then 1 else 0 := byteOfBool_decide _

theorem indexOverflowFlag_eq (i : Word) (b : Byte) :
    indexOverflowFlag i b = if 0xFFF < i.toNat + b.toNat then 1 else 0 := byteOfBool_decide _

theorem lowBitFlag_eq : ∀ a : Byte, lowBitFlag a = BitVec.ofNat 8 (a.toNat % 2) := by decide

theorem highBitFlag_eq : ∀ a : Byte, highBitFlag a = BitVec.ofNat 8 (a.toNat / 128) := by decide

theorem State.writeAlu_flagLast {s : State} (h : s.params.aluFlagOrder = .flagLast) (x : Reg) (r f : Byte) :
    (s.writeAlu x r f).v = (s.v.set x r).set 15 f := by
  unfold State.writeAlu; rw [h]; rfl

theorem State.writeAlu_resultLast {s : State} (h : s.params.aluFlagOrder = .resultLast) (x : Reg) (r f : Byte) :
    (s.writeAlu x r f).v = (s.v.set 15 f).set x r := by
  unfold State.writeAlu; rw [h]; rfl

theorem State.writeShift_flagFirst {s : State} (h : s.params.shiftVfOrder = .flagFirst) (x : Reg) (g d : Byte → Byte) :
    (s.writeShift x g d).v = (s.v.set 15 (d s.v[x])).set x (g (s.v.set 15 (d s.v[x]))[x]) := by
  unfold State.writeShift; rw [h]; rfl

theorem State.writeShift_flagLast {s : State} (h : s.params.shiftVfOrder = .flagLast) (x : Reg) (g d : Byte → Byte) :
    (s.writeShift x g d).v = (s.v.set x (g s.v[x])).set 15 (d s.v[x]) := by
  unfold State.writeShift; rw [h]; rfl

end Sys2Proof.Machine
end

