-- ==== Sys2Proof/Laws/Frame.lean ====
section
/-! SUPPORT. The framebuffer: reading after toggling, and what drawing a list of pixels does. -/

namespace Sys2Proof.Machine

@[simp] theorem Frame.pixel_clear (x : Fin 64) (y : Fin 32) : Frame.clear.pixel x y = false := by
  simp [Frame.clear, Frame.pixel]

/-- Toggling one pixel changes that pixel and no other. -/
theorem Frame.pixel_toggle (fb : Frame) (x x' : Fin 64) (y y' : Fin 32) :
    (fb.toggle x y).pixel x' y' = if x' = x ∧ y' = y then !fb.pixel x' y' else fb.pixel x' y' := by
  simp only [Frame.toggle, Frame.pixel, Fin.getElem_fin, Vector.getElem_set]
  by_cases hy : y = y'
  · subst hy
    by_cases hx : x' = x
    · subst hx; simp
    · have : ¬ (x'.val = x.val) := fun h => hx (Fin.ext h)
      simp [hx, this]
  · have : ¬ (y.val = y'.val) := fun h => hy (Fin.ext h)
    simp [this, Ne.symm hy]

/-- Two framebuffers with the same pixels are equal. -/
theorem Frame.ext_pixel {fb fb' : Frame} (h : ∀ x y, fb.pixel x y = fb'.pixel x y) : fb = fb' := by
  apply Vector.ext
  intro y hy
  apply BitVec.eq_of_getLsbD_eq
  intro x hx
  exact h ⟨x, hx⟩ ⟨y, hy⟩

/-- A pixel no listed pixel names keeps its value. -/
theorem drawPixels_not_mem {p : Pixel} : ∀ (ps : List Pixel) (fb : Frame) (c : Bool), p ∉ ps →
    (drawPixels ps fb c).1.pixel p.1 p.2 = fb.pixel p.1 p.2
  | [], _, _, _ => rfl
  | q :: ps, fb, c, h => by
    rw [List.mem_cons, not_or] at h
    rw [drawPixels, drawPixels_not_mem ps _ _ h.2, Frame.pixel_toggle, if_neg]
    exact fun e => h.1 (Prod.ext e.1 e.2)

/-- A pixel listed once is toggled. -/
theorem drawPixels_mem {p : Pixel} : ∀ (ps : List Pixel) (fb : Frame) (c : Bool), ps.Nodup → p ∈ ps →
    (drawPixels ps fb c).1.pixel p.1 p.2 = !fb.pixel p.1 p.2
  | q :: ps, fb, c, hn, h => by
    rw [List.nodup_cons] at hn
    by_cases hq : p = q
    · subst hq
      rw [drawPixels, drawPixels_not_mem ps _ _ hn.1, Frame.pixel_toggle, if_pos ⟨rfl, rfl⟩]
    · have hp : p ∈ ps := (List.mem_cons.1 h).resolve_left hq
      rw [drawPixels, drawPixels_mem ps _ _ hn.2 hp, Frame.pixel_toggle, if_neg]
      exact fun e => hq (Prod.ext e.1 e.2)

/-- With no pixel listed twice, the collision flag says whether a listed pixel was set before the draw. -/
theorem drawPixels_collision : ∀ (ps : List Pixel) (fb : Frame) (c : Bool), ps.Nodup →
    (drawPixels ps fb c).2 = (c || ps.any fun p => fb.pixel p.1 p.2)
  | [], _, c, _ => by simp [drawPixels]
  | q :: ps, fb, c, hn => by
    rw [List.nodup_cons] at hn
    have hsame : (ps.any fun p => (fb.toggle q.1 q.2).pixel p.1 p.2) = ps.any fun p => fb.pixel p.1 p.2 := by
      apply Bool.eq_iff_iff.2
      simp only [List.any_eq_true]
      refine exists_congr fun p => and_congr_right fun hp => ?_
      rw [Frame.pixel_toggle, if_neg]
      exact fun e => hn.1 ((Prod.ext e.1 e.2 : p = q) ▸ hp)
    rw [drawPixels, drawPixels_collision ps _ _ hn.2, hsame, List.any_cons, Bool.or_assoc]

/-! ## Where the sprite's pixels fall -/

/-- What it is for a row and column to be placed at a pixel (43_display.md R143). -/
theorem placePixel_eq_some {edge : DrawEdge} {x0 y0 : Byte} {col r : Nat} {p : Pixel} :
    placePixel edge x0 y0 col r = some p ↔
      match edge with
      | .wrap => p.1.val = (x0.toNat + col) % 64 ∧ p.2.val = (y0.toNat + r) % 32
      | .clip => p.1.val = x0.toNat % 64 + col ∧ p.2.val = y0.toNat % 32 + r := by
  obtain ⟨px, py⟩ := p
  cases edge with
  | wrap =>
    simp only [placePixel, Option.some.injEq, Prod.mk.injEq, Fin.ext_iff]
    exact and_congr eq_comm eq_comm
  | clip =>
    simp only [placePixel]
    split
    · simp only [Option.some.injEq, Prod.mk.injEq, Fin.ext_iff]
      exact and_congr eq_comm eq_comm
    · next h =>
      simp only [reduceCtorEq, false_iff]
      intro e
      exact h ⟨by omega, by omega⟩

/-- Within 8 columns and 15 rows no two places of a sprite fall on one pixel (43_display.md R143: "no pixel
is toggled twice in one draw"). -/
theorem placePixel_inj {edge : DrawEdge} {x0 y0 : Byte} {col r col' r' : Nat} {p : Pixel}
    (hc : col < 8) (hr : r < 16) (hc' : col' < 8) (hr' : r' < 16)
    (h : placePixel edge x0 y0 col r = some p) (h' : placePixel edge x0 y0 col' r' = some p) :
    col = col' ∧ r = r' := by
  rw [placePixel_eq_some] at h h'
  cases edge with
  | wrap => simp only at h h'; omega
  | clip => simp only at h h'; omega

theorem mem_rowPixels {edge : DrawEdge} {x0 y0 : Byte} {r : Nat} {b : Byte} {p : Pixel} :
    p ∈ rowPixels edge x0 y0 r b ↔
      ∃ col, col < 8 ∧ b.getLsbD (7 - col) = true ∧ placePixel edge x0 y0 col r = some p := by
  simp only [rowPixels, List.mem_filterMap, List.mem_range]
  refine exists_congr fun col => and_congr_right fun _ => ?_
  split <;> simp_all

theorem mem_spritePixels {s : State} {x0 y0 : Byte} {n : Nat} {p : Pixel} :
    p ∈ s.spritePixels x0 y0 n ↔
      ∃ r col, r < n ∧ col < 8 ∧ s.indexAddr + r ≤ 0xFFF ∧
        (s.readByte (s.indexAddr + r)).getLsbD (7 - col) = true ∧
        placePixel s.params.drawEdge x0 y0 col r = some p := by
  simp only [State.spritePixels, List.mem_flatMap, List.mem_range]
  constructor
  · rintro ⟨r, hr, hp⟩
    split at hp
    · cases hp
    · obtain ⟨col, hc, hb, hpl⟩ := mem_rowPixels.1 hp
      exact ⟨r, col, hr, hc, by omega, hb, hpl⟩
  · rintro ⟨r, col, hr, hc, ha, hb, hpl⟩
    refine ⟨r, hr, ?_⟩
    rw [if_neg (by omega)]
    exact mem_rowPixels.2 ⟨col, hc, hb, hpl⟩

theorem nodup_rowPixels {edge : DrawEdge} {x0 y0 : Byte} {r : Nat} (hr : r < 16) (b : Byte) :
    (rowPixels edge x0 y0 r b).Nodup := by
  rw [rowPixels, List.Nodup, List.pairwise_filterMap]
  refine List.Pairwise.imp_of_mem ?_ (List.nodup_range (n := 8))
  intro c c' hc hc' hne p hp p' hp' e
  subst e
  rw [List.mem_range] at hc hc'
  split at hp
  · split at hp'
    · exact hne (placePixel_inj hc hr hc' hr hp hp').1
    · cases hp'
  · cases hp

/-- A sprite of at most 15 rows names no pixel twice. -/
theorem nodup_spritePixels (s : State) (x0 y0 : Byte) {n : Nat} (hn : n < 16) : (s.spritePixels x0 y0 n).Nodup := by
  rw [State.spritePixels, List.nodup_flatMap]
  constructor
  · intro r hr
    rw [List.mem_range] at hr
    split
    · exact List.nodup_nil
    · exact nodup_rowPixels (by omega) _
  · refine List.Pairwise.imp_of_mem ?_ (List.nodup_range (n := n))
    intro r r' hr hr' hne p hp hp'
    rw [List.mem_range] at hr hr'
    have place : ∀ {q : Nat}, p ∈ (if 0xFFF < s.indexAddr + q then []
        else rowPixels s.params.drawEdge x0 y0 q (s.readByte (s.indexAddr + q))) →
        ∃ col, col < 8 ∧ placePixel s.params.drawEdge x0 y0 col q = some p := by
      intro q hq
      split at hq
      · cases hq
      · obtain ⟨col, hc, -, hpl⟩ := mem_rowPixels.1 hq
        exact ⟨col, hc, hpl⟩
    obtain ⟨c, hc, hpl⟩ := place hp
    obtain ⟨c', hc', hpl'⟩ := place hp'
    exact hne (placePixel_inj hc (by omega) hc' (by omega) hpl hpl').2

end Sys2Proof.Machine
end

