-- ==== Sys2Proof/Laws/PerInstr.lean ====
section
/-! SUPPORT. Per instruction: its word matches its row of spec/opcode_table.json (30_encoding.md R64). -/

namespace Sys2Proof.Laws

/-- The `mask` of the instruction's row: the bits the row fixes. -/
def rowMask : Instr → Word
  | .sys _ | .jp _ | .call _ | .seImm _ _ | .sneImm _ _ | .seReg _ _ | .ldImm _ _ | .addImm _ _ => 0xF000#16
  | .sneReg _ _ | .ldI _ | .jpV0 _ | .rnd _ _ | .drw _ _ _ => 0xF000#16
  | .cls | .ret => 0xFFFF#16
  | .ldReg _ _ | .orReg _ _ | .andReg _ _ | .xorReg _ _ | .addReg _ _ | .subReg _ _ | .shr _ _ => 0xF00F#16
  | .subnReg _ _ | .shl _ _ => 0xF00F#16
  | .skp _ | .sknp _ | .ldVxDt _ | .ldVxK _ | .ldDtVx _ | .ldStVx _ | .addI _ | .ldF _ | .ldB _ => 0xF0FF#16
  | .ldMemVx _ | .ldVxMem _ => 0xF0FF#16

/-- The `match` of the instruction's row: the values of those bits. -/
def rowMatch : Instr → Word
  | .sys _ => 0x0000#16
  | .cls => 0x00E0#16
  | .ret => 0x00EE#16
  | .jp _ => 0x1000#16
  | .call _ => 0x2000#16
  | .seImm _ _ => 0x3000#16
  | .sneImm _ _ => 0x4000#16
  | .seReg _ _ => 0x5000#16
  | .ldImm _ _ => 0x6000#16
  | .addImm _ _ => 0x7000#16
  | .ldReg _ _ => 0x8000#16
  | .orReg _ _ => 0x8001#16
  | .andReg _ _ => 0x8002#16
  | .xorReg _ _ => 0x8003#16
  | .addReg _ _ => 0x8004#16
  | .subReg _ _ => 0x8005#16
  | .shr _ _ => 0x8006#16
  | .subnReg _ _ => 0x8007#16
  | .shl _ _ => 0x800E#16
  | .sneReg _ _ => 0x9000#16
  | .ldI _ => 0xA000#16
  | .jpV0 _ => 0xB000#16
  | .rnd _ _ => 0xC000#16
  | .drw _ _ _ => 0xD000#16
  | .skp _ => 0xE09E#16
  | .sknp _ => 0xE0A1#16
  | .ldVxDt _ => 0xF007#16
  | .ldVxK _ => 0xF00A#16
  | .ldDtVx _ => 0xF015#16
  | .ldStVx _ => 0xF018#16
  | .addI _ => 0xF01E#16
  | .ldF _ => 0xF029#16
  | .ldB _ => 0xF033#16
  | .ldMemVx _ => 0xF055#16
  | .ldVxMem _ => 0xF065#16

theorem append_and_append {n m : Nat} (a c : BitVec n) (b d : BitVec m) :
    (a ++ b) &&& (c ++ d) = (a &&& c) ++ (b &&& d) := by
  ext i hi
  simp only [BitVec.getElem_and, BitVec.getElem_append]
  split <;> simp

theorem and_full (f : Nibble) : f &&& 0xF#4 = f := BitVec.and_allOnes

theorem mask_wordNNN (f : Nibble) (nnn : Addr12) : wordNNN f nnn &&& (0xF#4 ++ 0#12) = f ++ 0#12 := by
  rw [wordNNN, append_and_append, and_full, BitVec.and_zero]

theorem mask_wordXNN (f : Nibble) (x : Reg) (nn k : Byte) :
    wordXNN f x nn &&& (0xF#4 ++ 0#4 ++ k) = f ++ 0#4 ++ (nn &&& k) := by
  rw [wordXNN, append_and_append, append_and_append, and_full, BitVec.and_zero]

theorem mask_wordXYN (f : Nibble) (x y : Reg) (n k : Nibble) :
    wordXYN f x y n &&& (0xF#4 ++ 0#4 ++ 0#4 ++ k) = f ++ 0#4 ++ 0#4 ++ (n &&& k) := by
  rw [wordXYN, append_and_append, append_and_append, append_and_append, and_full, BitVec.and_zero, BitVec.and_zero]

/-- The word's fixed bits are those its row gives. -/
def RowPattern.Statement (i : Instr) : Prop := encode i &&& rowMask i = rowMatch i

theorem RowPattern.sys (nnn : Addr12) : RowPattern.Statement (.sys nnn) := mask_wordNNN _ _
theorem RowPattern.cls : RowPattern.Statement .cls := rfl
theorem RowPattern.ret : RowPattern.Statement .ret := rfl
theorem RowPattern.jp (nnn : Addr12) : RowPattern.Statement (.jp nnn) := mask_wordNNN _ _
theorem RowPattern.call (nnn : Addr12) : RowPattern.Statement (.call nnn) := mask_wordNNN _ _
theorem RowPattern.seImm (x : Reg) (nn : Byte) : RowPattern.Statement (.seImm x nn) :=
  (mask_wordXNN _ _ _ 0x00#8).trans (by rw [BitVec.and_zero]; rfl)
theorem RowPattern.sneImm (x : Reg) (nn : Byte) : RowPattern.Statement (.sneImm x nn) :=
  (mask_wordXNN _ _ _ 0x00#8).trans (by rw [BitVec.and_zero]; rfl)
theorem RowPattern.seReg (x y : Reg) : RowPattern.Statement (.seReg x y) := mask_wordXYN _ _ _ _ 0x0#4
theorem RowPattern.ldImm (x : Reg) (nn : Byte) : RowPattern.Statement (.ldImm x nn) :=
  (mask_wordXNN _ _ _ 0x00#8).trans (by rw [BitVec.and_zero]; rfl)
theorem RowPattern.addImm (x : Reg) (nn : Byte) : RowPattern.Statement (.addImm x nn) :=
  (mask_wordXNN _ _ _ 0x00#8).trans (by rw [BitVec.and_zero]; rfl)
theorem RowPattern.ldReg (x y : Reg) : RowPattern.Statement (.ldReg x y) := mask_wordXYN _ _ _ _ 0xF#4
theorem RowPattern.orReg (x y : Reg) : RowPattern.Statement (.orReg x y) := mask_wordXYN _ _ _ _ 0xF#4
theorem RowPattern.andReg (x y : Reg) : RowPattern.Statement (.andReg x y) := mask_wordXYN _ _ _ _ 0xF#4
theorem RowPattern.xorReg (x y : Reg) : RowPattern.Statement (.xorReg x y) := mask_wordXYN _ _ _ _ 0xF#4
theorem RowPattern.addReg (x y : Reg) : RowPattern.Statement (.addReg x y) := mask_wordXYN _ _ _ _ 0xF#4
theorem RowPattern.subReg (x y : Reg) : RowPattern.Statement (.subReg x y) := mask_wordXYN _ _ _ _ 0xF#4
theorem RowPattern.shr (x y : Reg) : RowPattern.Statement (.shr x y) := mask_wordXYN _ _ _ _ 0xF#4
theorem RowPattern.subnReg (x y : Reg) : RowPattern.Statement (.subnReg x y) := mask_wordXYN _ _ _ _ 0xF#4
theorem RowPattern.shl (x y : Reg) : RowPattern.Statement (.shl x y) := mask_wordXYN _ _ _ _ 0xF#4
theorem RowPattern.sneReg (x y : Reg) : RowPattern.Statement (.sneReg x y) := mask_wordXYN _ _ _ _ 0x0#4
theorem RowPattern.ldI (nnn : Addr12) : RowPattern.Statement (.ldI nnn) := mask_wordNNN _ _
theorem RowPattern.jpV0 (nnn : Addr12) : RowPattern.Statement (.jpV0 nnn) := mask_wordNNN _ _
theorem RowPattern.rnd (x : Reg) (nn : Byte) : RowPattern.Statement (.rnd x nn) :=
  (mask_wordXNN _ _ _ 0x00#8).trans (by rw [BitVec.and_zero]; rfl)
theorem RowPattern.drw (x y : Reg) (n : Nibble) : RowPattern.Statement (.drw x y n) :=
  (mask_wordXYN _ _ _ _ 0x0#4).trans (by rw [BitVec.and_zero]; rfl)
theorem RowPattern.skp (x : Reg) : RowPattern.Statement (.skp x) := mask_wordXNN _ _ _ 0xFF#8
theorem RowPattern.sknp (x : Reg) : RowPattern.Statement (.sknp x) := mask_wordXNN _ _ _ 0xFF#8
theorem RowPattern.ldVxDt (x : Reg) : RowPattern.Statement (.ldVxDt x) := mask_wordXNN _ _ _ 0xFF#8
theorem RowPattern.ldVxK (x : Reg) : RowPattern.Statement (.ldVxK x) := mask_wordXNN _ _ _ 0xFF#8
theorem RowPattern.ldDtVx (x : Reg) : RowPattern.Statement (.ldDtVx x) := mask_wordXNN _ _ _ 0xFF#8
theorem RowPattern.ldStVx (x : Reg) : RowPattern.Statement (.ldStVx x) := mask_wordXNN _ _ _ 0xFF#8
theorem RowPattern.addI (x : Reg) : RowPattern.Statement (.addI x) := mask_wordXNN _ _ _ 0xFF#8
theorem RowPattern.ldF (x : Reg) : RowPattern.Statement (.ldF x) := mask_wordXNN _ _ _ 0xFF#8
theorem RowPattern.ldB (x : Reg) : RowPattern.Statement (.ldB x) := mask_wordXNN _ _ _ 0xFF#8
theorem RowPattern.ldMemVx (x : Reg) : RowPattern.Statement (.ldMemVx x) := mask_wordXNN _ _ _ 0xFF#8
theorem RowPattern.ldVxMem (x : Reg) : RowPattern.Statement (.ldVxMem x) := mask_wordXNN _ _ _ 0xFF#8

end Sys2Proof.Laws
end

