-- ==== Sys2Proof/Laws/Step.lean ====
section
/-! SUPPORT. The step: what it does with the host's next call, and everything a `step` call can do. -/

namespace Sys2Proof.Machine

/-! ## Fetch -/

theorem toNat_wordOfBytes (hi lo : Byte) : (wordOfBytes hi lo).toNat = 256 * hi.toNat + lo.toNat := by
  have h : (wordOfBytes hi lo).toNat = hi.toNat <<< 8 ||| lo.toNat := BitVec.toNat_append hi lo
  rw [h, ← Nat.shiftLeft_add_eq_or_of_lt lo.isLt, Nat.shiftLeft_eq]
  omega

/-- The word a state fetches. -/
def State.wordAt (s : State) (a : Nat) : Word := wordOfBytes (s.readByte a) (s.readByte (a + 1))

theorem State.fetchWord_of_le {s : State} (h : s.pc.toNat + 1 ≤ 0xFFF) : s.fetchWord = some (s.wordAt s.pc.toNat) := by
  rw [State.fetchWord, if_neg (by omega)]; rfl

theorem State.fetchWord_of_gt {s : State} (h : 0xFFF < s.pc.toNat + 1) : s.fetchWord = none := by
  rw [State.fetchWord, if_pos h]

/-- Fetch depends on PC, memory and the configuration only. -/
theorem State.fetchWord_congr {s t : State} (hp : t.pc = s.pc) (hm : t.mem = s.mem) (hq : t.params = s.params) :
    t.fetchWord = s.fetchWord := by
  simp only [State.fetchWord, hp, State.readByte_of_mem_eq s t hm hq]

/-- UNKNOWN carries the decoded word. -/
theorem decodeWord_unknown {v w : Word} (h : decodeWord v = .unknown w) : w = v := by
  unfold decodeWord at h
  split at h <;> try cases h
  · unfold decodeFamily0 at h; split at h <;> [cases h; (split at h <;> cases h)]
  · unfold decodeFamily8 at h; split at h <;> first | (cases h; done) | (cases h; rfl)
  · unfold decodeFamilyE at h; split at h <;> first | (cases h; done) | (cases h; rfl)
  · unfold decodeFamilyF at h; split at h <;> first | (cases h; done) | (cases h; rfl)

/-! ## The host's next call -/

theorem step_listed {s : State} {c : HostCall} {rest : List HostCall} (h : s.script = c :: rest) :
    step s = ({ s with script := rest } : State).perform c := by
  simp only [step, State.nextCall, State.takeCall, h, List.tail_cons]

theorem step_unlisted {s : State} (h : s.script = []) :
    step s = s.perform (.step (Config.freeKeys s.draws) (Config.freeRnd s.draws)) := by
  obtain ⟨⟩ := s
  cases h
  rfl

theorem step_of_nextCall {s : State} {keys : Keys} {rnd : Byte} (h : s.nextCall = .step keys rnd) :
    step s = (s.takeCall.present keys rnd).stepCall := by
  rw [step, h]; rfl

/-- Everything a step can do, by the host's next call. -/
theorem step_cases {s t : State} (h : step s = .next t) :
    (∃ keys rnd, s.nextCall = .step keys rnd ∧ (s.takeCall.present keys rnd).stepCall = .next t) ∨
    (s.nextCall = .reset ∧ t = s.takeCall.resetCall) ∨
    (∃ rom, s.nextCall = .loadProgram rom ∧ t = s.takeCall.loadProgram rom) ∨
    (s.nextCall = .tickTimers ∧ t = s.takeCall.tickTimers) ∨
    (s.nextCall = .clearRedraw ∧ t = s.takeCall.clearRedraw) ∨
    (∃ x y, s.nextCall = .readPixel x y ∧ t = s.takeCall.readPixel x y) := by
  unfold step at h
  cases hn : s.nextCall <;> rw [hn] at h
  case step k r => exact .inl ⟨k, r, rfl, h⟩
  all_goals cases h; simp

/-! ## A `step` call (60_exceptions.md R172) -/

theorem State.stepCall_halted {s : State} (h : s.halted = true) : s.stepCall = .next s.stayHalted := by
  simp [State.stepCall, h]

theorem State.stepCall_fetch {s : State} (h : s.halted = false) (hf : s.fetchWord = none) :
    s.stepCall = .next (s.raise (.fetchOutOfRange s.pc)) := by
  simp [State.stepCall, h, hf]

theorem State.stepCall_unknown {s : State} {w u : Word} (h : s.halted = false) (hf : s.fetchWord = some w)
    (hd : decodeWord w = .unknown u) : s.stepCall = .next (s.raise (.unknownOpcode u)) := by
  simp [State.stepCall, h, hf, hd]

theorem State.stepCall_instr {s : State} {w : Word} {i : Instr} (h : s.halted = false) (hf : s.fetchWord = some w)
    (hd : decodeWord w = .instr i) : s.stepCall = exec i s := by
  simp [State.stepCall, h, hf, hd]

/-- Everything a `step` call can do. -/
theorem State.stepCall_cases {s t : State} (h : s.stepCall = .next t) :
    (s.halted = true ∧ t = s.stayHalted) ∨
    (s.halted = false ∧ ((∃ f, t = s.raise f) ∨ ∃ w i, s.fetchWord = some w ∧ decodeWord w = .instr i ∧ exec i s = .next t)) := by
  cases hh : s.halted with
  | true =>
    rw [State.stepCall_halted hh] at h
    cases h
    exact .inl ⟨rfl, rfl⟩
  | false =>
    refine .inr ⟨rfl, ?_⟩
    cases hf : s.fetchWord with
    | none =>
      rw [State.stepCall_fetch hh hf] at h
      cases h
      exact .inl ⟨_, rfl⟩
    | some w =>
      cases hd : decodeWord w with
      | unknown u =>
        rw [State.stepCall_unknown hh hf hd] at h
        cases h
        exact .inl ⟨_, rfl⟩
      | instr i =>
        rw [State.stepCall_instr hh hf hd] at h
        exact .inr ⟨w, i, rfl, hd, h⟩

/-- Everything a `step` call can do to a core that is not halted, the instruction's own effect summed up. -/
theorem State.stepCall_outcome {s t : State} (h : s.stepCall = .next t) :
    (s.halted = true ∧ t = s.stayHalted) ∨
    (s.halted = false ∧ ((∃ f, t = s.raise f) ∨ t = s.blocked ∨ ∃ u, t = u.completed ∧ CompletesFrom s u)) := by
  rcases State.stepCall_cases h with h | ⟨hh, hf | ⟨w, i, -, -, he⟩⟩
  · exact .inl h
  · exact .inr ⟨hh, .inl hf⟩
  · exact .inr ⟨hh, exec_cases he⟩

end Sys2Proof.Machine
end

