-- ==== Sys2Proof/Tests/Slice0.lean ====
section
/-! SUPPORT. The model's own tests, each about one step on a small state, with expected values from
spec/95_test_vectors.md (the vector's id stands in each comment), and for every obligation with hypotheses
a witness that concrete states and operands meet them. -/

namespace Sys2Proof.Tests

open Sys2Proof Sys2Proof.Machine

/-! ## Helpers -/

/-- The state an answer holds. -/
def ended : Answer → State
  | .next t => t
  | .fault _ | .refused _ => State.reset

/-- The reset state with the listed registers set. -/
def regs (l : List (Reg × Byte)) : State := l.foldl (fun s p => s.setV p.1 p.2) State.reset

/-- `s` with the word at PC, about to take one `step` call. -/
def atWord (w : Word) (s : State) (keys : Keys := 0) (rnd : Byte := 0) : State :=
  { s.storeBytes s.pc.toNat [highByte w, lowByte w] with script := [.step keys rnd] }

/-- One step of the word at PC. -/
def ran (w : Word) (s : State) (keys : Keys := 0) (rnd : Byte := 0) : State := ended (step (atWord w s keys rnd))

/-- One call of the host. -/
def called (c : HostCall) (s : State) : State := ended (step { s with script := [c] })

/-- The state with another parameter. -/
def withParams (s : State) (f : Params → Params) : State := { s with params := f s.params }

/-- The framebuffer with exactly the listed pixels lit. -/
def lit (l : List Pixel) : Frame := l.foldl (fun fb p => fb.toggle p.1 p.2) Frame.clear

/-! ## WellFormed: each check refuses an ill-formed term -/

theorem test_wellFormed_refuses_sys_of_cls : (Instr.sys 0x0E0#12).wellFormed = false := by decide
theorem test_wellFormed_refuses_sys_of_ret : (Instr.sys 0x0EE#12).wellFormed = false := by decide
theorem test_wellFormed_accepts : (Instr.sys 0x1E0#12).wellFormed = true ∧ Instr.cls.wellFormed = true ∧
    (Instr.shl 0xF 0xF).wellFormed = true := by decide

/-! ## Decoding: a word of each row, written out from its encoding (30_encoding.md R60, R64) -/

/-- V8.1 to V8.6: the whole-word compares of family 0. -/
theorem test_decode_family0 :
    decodeWord 0b0000000011100000#16 = .instr .cls ∧ decodeWord 0b0000000011101110#16 = .instr .ret ∧
    decodeWord 0b0000000000000000#16 = .instr (.sys 0x000#12) ∧
    decodeWord 0b0000000111100000#16 = .instr (.sys 0x1E0#12) ∧
    decodeWord 0b0000111111101110#16 = .instr (.sys 0xFEE#12) ∧
    decodeWord 0b0000000011111111#16 = .instr (.sys 0x0FF#12) := by decide

/-- 1NNN, 2NNN, ANNN, BNNN (V2.1, V2.2, V5.1, V2.10). -/
theorem test_decode_addresses :
    decodeWord 0b0001101010111100#16 = .instr (.jp 0xABC#12) ∧
    decodeWord 0b0010001100000100#16 = .instr (.call 0x304#12) ∧
    decodeWord 0b1010001011110000#16 = .instr (.ldI 0x2F0#12) ∧
    decodeWord 0b1011001100000000#16 = .instr (.jpV0 0x300#12) := by decide

/-- 3XNN, 4XNN, 6XNN, 7XNN, CXNN (V2.6a, V2.7a, V1.1, V3.1, V3.15a). -/
theorem test_decode_immediates :
    decodeWord 0b0011001101000010#16 = .instr (.seImm 3 0x42#8) ∧
    decodeWord 0b0100001101000010#16 = .instr (.sneImm 3 0x42#8) ∧
    decodeWord 0b0110101000101111#16 = .instr (.ldImm 0xA 0x2F#8) ∧
    decodeWord 0b0111000100000011#16 = .instr (.addImm 1 0x03#8) ∧
    decodeWord 0b1100001100001111#16 = .instr (.rnd 3 0x0F#8) := by decide

/-- 5XYN and 9XYN at any N (V8.7, V8.8), DXYN (V4.2). -/
theorem test_decode_registers :
    decodeWord 0b0101000100100001#16 = .instr (.seReg 1 2) ∧ decodeWord 0b1001101010110011#16 = .instr (.sneReg 0xA 0xB) ∧
    decodeWord 0b1101000000010101#16 = .instr (.drw 0 1 0x5#4) := by decide

/-- 8XY0 to 8XYE (V3.2 to V3.14, V8.11). -/
theorem test_decode_family8 :
    decodeWord 0b1000000100100000#16 = .instr (.ldReg 1 2) ∧ decodeWord 0b1000000100100001#16 = .instr (.orReg 1 2) ∧
    decodeWord 0b1000000100100010#16 = .instr (.andReg 1 2) ∧ decodeWord 0b1000000100100011#16 = .instr (.xorReg 1 2) ∧
    decodeWord 0b1000000111110100#16 = .instr (.addReg 1 0xF) ∧ decodeWord 0b1000111100010101#16 = .instr (.subReg 0xF 1) ∧
    decodeWord 0b1000000011110110#16 = .instr (.shr 0 0xF) ∧ decodeWord 0b1000000000010111#16 = .instr (.subnReg 0 1) ∧
    decodeWord 0b1000111111111110#16 = .instr (.shl 0xF 0xF) := by decide

/-- EX9E, EXA1 (V6.1a, V8.13). -/
theorem test_decode_familyE :
    decodeWord 0b1110010110011110#16 = .instr (.skp 5) ∧ decodeWord 0b1110000110100001#16 = .instr (.sknp 1) := by decide

/-- The FX rows (V6.4a, V6.5a, V6.4b, V6.4c, V5.2a, V5.3a, V5.4a, V5.5a, V8.16). -/
theorem test_decode_familyF :
    decodeWord 0b1111001100000111#16 = .instr (.ldVxDt 3) ∧ decodeWord 0b1111001000001010#16 = .instr (.ldVxK 2) ∧
    decodeWord 0b1111001100010101#16 = .instr (.ldDtVx 3) ∧ decodeWord 0b1111001100011000#16 = .instr (.ldStVx 3) ∧
    decodeWord 0b1111001000011110#16 = .instr (.addI 2) ∧ decodeWord 0b1111101000101001#16 = .instr (.ldF 0xA) ∧
    decodeWord 0b1111001100110011#16 = .instr (.ldB 3) ∧ decodeWord 0b1111001001010101#16 = .instr (.ldMemVx 2) ∧
    decodeWord 0b1111000101100101#16 = .instr (.ldVxMem 1) := by decide

/-- V8.9, V8.10, V8.12, V8.14, V8.15, V8.17. -/
theorem test_decode_unknown :
    decodeWord 0x8128#16 = .unknown 0x8128#16 ∧ decodeWord 0x812F#16 = .unknown 0x812F#16 ∧
    decodeWord 0xE19F#16 = .unknown 0xE19F#16 ∧ decodeWord 0xF01F#16 = .unknown 0xF01F#16 ∧
    decodeWord 0xF030#16 = .unknown 0xF030#16 ∧ decodeWord 0xFFFF#16 = .unknown 0xFFFF#16 := by decide

/-- The numbering of spec/opcode_table.json: bits above the row's are 0, the first byte is the high one. -/
theorem test_decodeTableWord : decodeTableWord 16 0x8FFE = some (.shl 0xF 0xF) ∧ decodeTableWord 16 0xF030 = none ∧
    decodeTableWord 8 0xFFEE = some .ret := by decide

/-! ## Control flow -/

/-- V2.13a. -/
theorem test_sys_unknown : (ran 0x0123#16 State.reset).lastStep = some (.fault (.unknownOpcode 0x0123#16)) ∧
    (ran 0x0123#16 State.reset).pc = 0x200 ∧ (ran 0x0123#16 State.reset).statusByte = 0x10 := by decide +kernel
/-- V2.13b. -/
theorem test_sys_nop : (ran 0x0123#16 (withParams .reset fun p => { p with sysMode := .nop })).pc = 0x202 := by
  decide +kernel
/-- V2.3. -/
theorem test_ret :
    let t := ran 0x00EE#16 { State.reset with pc := 0x400, sp := 1, stack := State.reset.stack.set 0 0x300 }
    t.pc = 0x302 ∧ t.sp = 0 ∧ t.stack[0] = 0x300 := by decide +kernel
/-- V2.4. -/
theorem test_ret_underflow : (ran 0x00EE#16 State.reset).lastStep = some (.fault .stackUnderflow) ∧
    (ran 0x00EE#16 State.reset).statusByte = 0x34 ∧ (ran 0x00EE#16 State.reset).pc = 0x200 := by decide +kernel
/-- V2.1. -/
theorem test_jp : (ran 0x1ABC#16 State.reset).pc = 0x0ABC := by decide +kernel
/-- V2.2. -/
theorem test_call : let t := ran 0x2304#16 State.reset
    t.stack[0] = 0x200 ∧ t.sp = 1 ∧ t.pc = 0x304 := by decide +kernel
/-- V2.5. -/
theorem test_call_overflow : let t := ran 0x2304#16 { State.reset with sp := 16 }
    t.lastStep = some (.fault .stackOverflow) ∧ t.statusByte = 0x24 ∧ t.pc = 0x200 ∧ t.sp = 16 := by decide +kernel
/-- V2.6a, V2.6b. -/
theorem test_seImm : (ran 0x3342#16 (regs [(3, 0x42)])).pc = 0x204 ∧ (ran 0x3343#16 (regs [(3, 0x42)])).pc = 0x202 := by
  decide +kernel
/-- V2.7a, V2.7b. -/
theorem test_sneImm : (ran 0x4342#16 (regs [(3, 0x42)])).pc = 0x202 ∧ (ran 0x4343#16 (regs [(3, 0x42)])).pc = 0x204 := by
  decide +kernel
/-- V2.8b, V2.8c. -/
theorem test_seReg : (ran 0x5127#16 (regs [(1, 7), (2, 7)])).pc = 0x204 ∧ (ran 0x5120#16 (regs [(1, 7), (2, 8)])).pc = 0x202 := by
  decide +kernel
/-- V2.9a, V2.9b. -/
theorem test_sneReg : (ran 0x9120#16 (regs [(1, 7), (2, 8)])).pc = 0x204 ∧ (ran 0x9120#16 (regs [(1, 7), (2, 7)])).pc = 0x202 := by
  decide +kernel
/-- V2.12, the first step: the sum does not wrap at 0xFFF. -/
theorem test_jpV0 : (ran 0xBFFF#16 (regs [(0, 0xFF)])).pc = 0x10FE := by decide +kernel

/-! ## ALU -/

/-- V1.1. -/
theorem test_ldImm : (ran 0x6A2F#16 State.reset).v[0xA] = 0x2F := by decide +kernel
/-- V3.1. -/
theorem test_addImm_no_flag : let t := ran 0x7103#16 (regs [(1, 0xFE), (15, 0x05)])
    t.v[1] = 0x01 ∧ t.v[15] = 0x05 := by decide +kernel
/-- V3.2. -/
theorem test_ldReg : (ran 0x8120#16 (regs [(2, 0x99)])).v[1] = 0x99 := by decide +kernel
/-- V3.3. -/
theorem test_orReg : let t := ran 0x8121#16 (regs [(1, 0xF0), (2, 0x0F), (15, 0x55)])
    t.v[1] = 0xFF ∧ t.v[15] = 0x55 := by decide +kernel
/-- V3.4. -/
theorem test_andReg : let t := ran 0x8122#16 (regs [(1, 0xF0), (2, 0x3C), (15, 0x55)])
    t.v[1] = 0x30 ∧ t.v[15] = 0x55 := by decide +kernel
/-- V3.5. -/
theorem test_xorReg : let t := ran 0x8123#16 (regs [(1, 0xFF), (2, 0x0F), (15, 0x55)])
    t.v[1] = 0xF0 ∧ t.v[15] = 0x55 := by decide +kernel
/-- V1.2a, V3.14 (Y = F reads the old VF). -/
theorem test_addReg : let t := ran 0x8014#16 (regs [(0, 0xFE), (1, 0xF0)])
    let u := ran 0x81F4#16 (regs [(1, 0xFF), (15, 0x01)])
    t.v[0] = 0xEE ∧ t.v[15] = 1 ∧ u.v[1] = 0x00 ∧ u.v[15] = 1 := by decide +kernel
/-- V3.12a, V3.12b. -/
theorem test_addReg_vf : (ran 0x8F14#16 (regs [(15, 0x10), (1, 0x20)])).v[15] = 0 ∧
    (ran 0x8F14#16 (withParams (regs [(15, 0x10), (1, 0x20)]) fun p => { p with aluFlagOrder := .resultLast })).v[15] = 0x30 := by
  decide +kernel
/-- V1.3b, V3.8a. -/
theorem test_subReg : let t := ran 0x8015#16 (regs [(0, 0x04), (1, 0x20)])
    let u := ran 0x8015#16 (regs [(0, 0x33), (1, 0x33)])
    t.v[0] = 0xE4 ∧ t.v[15] = 0 ∧ u.v[0] = 0 ∧ u.v[15] = 1 := by decide +kernel
/-- V3.12c, V3.12d. -/
theorem test_subReg_vf : (ran 0x8F15#16 (regs [(15, 0x10), (1, 0x20)])).v[15] = 0 ∧
    (ran 0x8F15#16 (withParams (regs [(15, 0x10), (1, 0x20)]) fun p => { p with aluFlagOrder := .resultLast })).v[15] = 0xF0 := by
  decide +kernel
/-- V3.10c (Y = F is ignored). -/
theorem test_shr : let t := ran 0x80F6#16 (regs [(0, 0xEF), (15, 0x22)])
    t.v[0] = 0x77 ∧ t.v[15] = 1 := by decide +kernel
/-- V3.13a, V3.13b. -/
theorem test_shr_vf : (ran 0x8F06#16 (regs [(15, 0x03)])).v[15] = 0x00 ∧
    (ran 0x8F06#16 (withParams (regs [(15, 0x03)]) fun p => { p with shiftVfOrder := .flagLast })).v[15] = 0x01 := by
  decide +kernel
/-- V3.9a, V3.9b. -/
theorem test_subnReg : let t := ran 0x8017#16 (regs [(0, 0xF0), (1, 0xFE)])
    let u := ran 0x8017#16 (regs [(0, 0x20), (1, 0x04)])
    t.v[0] = 0x0E ∧ t.v[15] = 1 ∧ u.v[0] = 0xE4 ∧ u.v[15] = 0 := by decide +kernel
/-- V3.11c. -/
theorem test_shl : let t := ran 0x800E#16 (regs [(0, 0xEF)])
    t.v[0] = 0xDE ∧ t.v[15] = 1 := by decide +kernel
/-- V3.13c, V3.13d. -/
theorem test_shl_vf : (ran 0x8F0E#16 (regs [(15, 0x81)])).v[15] = 0x02 ∧
    (ran 0x8F0E#16 (withParams (regs [(15, 0x81)]) fun p => { p with shiftVfOrder := .flagLast })).v[15] = 0x01 := by
  decide +kernel
/-- V3.15a, V3.15c. -/
theorem test_rnd : (ran 0xC30F#16 State.reset 0 0xA7).v[3] = 0x07 ∧ (ran 0xC3FF#16 State.reset 0 0xA7).v[3] = 0xA7 := by
  decide +kernel

/-! ## Index and memory -/

/-- V5.1. -/
theorem test_ldI : (ran 0xA2F0#16 State.reset).i = 0x02F0 := by decide +kernel
/-- V5.2b, V5.2c. -/
theorem test_addI : let t := ran 0xF11E#16 { regs [(1, 0x01)] with i := 0x0FFE }
    let u := ran 0xF11E#16 { regs [(1, 0x01)] with i := 0x0FFF }
    t.i = 0x0FFF ∧ t.v[15] = 0 ∧ u.i = 0x1000 ∧ u.v[15] = 1 := by decide +kernel
/-- V5.2d, V5.2e. -/
theorem test_addI_wrap : let t := ran 0xF11E#16 { regs [(1, 0x20)] with i := 0xFFF0 }
    let u := ran 0xFF1E#16 { regs [(15, 0x05)] with i := 0x0100 }
    t.i = 0x0010 ∧ t.v[15] = 1 ∧ u.i = 0x0105 ∧ u.v[15] = 0 := by decide +kernel
/-- V5.3b, V5.3c. -/
theorem test_ldF : (ran 0xFA29#16 (regs [(10, 0x10)])).i = 0x0050 ∧ (ran 0xFA29#16 (regs [(10, 0xFF)])).i = 0x04FB := by
  decide +kernel
/-- V1.7. -/
theorem test_ldB : let t := ran 0xF533#16 { regs [(5, 204)] with i := 0x300 }
    t.readByte 0x300 = 2 ∧ t.readByte 0x301 = 0 ∧ t.readByte 0x302 = 4 ∧ t.i = 0x300 := by decide +kernel
/-- V5.4c, V5.4d. -/
theorem test_ldB_faults : let t := ran 0xF333#16 { regs [(3, 7)] with i := 0xFFE }
    let u := ran 0xF333#16 { regs [(3, 7)] with i := 0x04E }
    t.lastStep = some (.fault (.memoryOutOfRange 0x1000)) ∧ t.halted = true ∧ t.readByte 0xFFE = 0 ∧
    u.lastStep = some (.fault (.fontWrite 0x04E)) ∧ u.fault = 6 := by decide +kernel
/-- V5.5a. -/
theorem test_ldMemVx : let t := ran 0xF255#16 { regs [(0, 1), (1, 2), (2, 3), (3, 4)] with i := 0x300 }
    t.readByte 0x300 = 1 ∧ t.readByte 0x301 = 2 ∧ t.readByte 0x302 = 3 ∧ t.readByte 0x303 = 0 ∧ t.i = 0x300 := by
  decide +kernel
/-- V5.5b, V5.5d. -/
theorem test_ldMemVx_faults : let t := ran 0xF055#16 { regs [(0, 9)] with i := 0x04F }
    let u := ran 0xFF55#16 { State.reset with i := 0xFF1 }
    t.lastStep = some (.fault (.fontWrite 0x04F)) ∧ u.lastStep = some (.fault (.memoryOutOfRange 0x1000)) := by
  decide +kernel
/-- V5.6a. -/
theorem test_ldVxMem_font : let t := ran 0xF465#16 State.reset
    t.v[0] = 0xF0 ∧ t.v[1] = 0x90 ∧ t.v[4] = 0xF0 ∧ t.v[5] = 0 := by decide +kernel
/-- V5.6b. -/
theorem test_ldVxMem_fault : let t := ran 0xF465#16 { State.reset with i := 0xFFC }
    t.lastStep = some (.fault (.memoryOutOfRange 0x1000)) ∧ t.v = State.reset.v := by decide +kernel

/-! ## Display -/

/-- V4.1. -/
theorem test_cls : let t := ran 0x00E0#16 { State.reset with fb := lit [(0, 0), (63, 31), (10, 20)] }
    t.fb = Frame.clear ∧ t.redraw = true := by decide +kernel
/-- V4.4 (wrap), V4.5 (clip). -/
theorem test_drw_edge :
    let s := ({ regs [(0, 60), (1, 31)] with i := 0x300 } : State).storeBytes 0x300 [0xFF, 0xFF]
    (ran 0xD012#16 s).fb = lit [(60, 31), (61, 31), (62, 31), (63, 31), (0, 31), (1, 31), (2, 31), (3, 31),
      (60, 0), (61, 0), (62, 0), (63, 0), (0, 0), (1, 0), (2, 0), (3, 0)] ∧
    (ran 0xD012#16 (withParams s fun p => { p with drawEdge := .clip })).fb =
      lit [(60, 31), (61, 31), (62, 31), (63, 31)] := by decide +kernel
/-- V4.6 (a collision on a wrapped pixel), V4.10 (rows above 0xFFF are skipped). -/
theorem test_drw_collision_and_rows :
    let s := ({ regs [(0, 60)] with i := 0x300, fb := lit [(0, 0)] } : State).storeBytes 0x300 [0xFF]
    let u := ({ State.reset with pc := 0x300, i := 0xFFE } : State).storeBytes 0xFFE [0x80, 0x40]
    (ran 0xD011#16 s).fb = lit [(60, 0), (61, 0), (62, 0), (63, 0), (1, 0), (2, 0), (3, 0)] ∧
    (ran 0xD011#16 s).v[15] = 1 ∧ (ran 0xD014#16 u).fb = lit [(0, 0), (1, 1)] ∧ (ran 0xD014#16 u).v[15] = 0 := by
  decide +kernel

/-! ## Keypad and timers -/

/-- V6.1a, V6.1b. -/
theorem test_skp : (ran 0xE59E#16 (regs [(5, 0x0A)]) 0x0400).pc = 0x204 ∧ (ran 0xE59E#16 (regs [(5, 0x0A)]) 0).pc = 0x202 := by
  decide +kernel
/-- V6.3. -/
theorem test_skp_index : let t := ran 0xE59E#16 (regs [(5, 0x10)]) 0xFFFF
    t.lastStep = some (.fault (.keyIndexOutOfRange 0x10)) ∧ t.kpPrev = 0 ∧ t.statusByte = 0x74 := by decide +kernel
/-- V6.2a, V6.2b. -/
theorem test_sknp : (ran 0xE5A1#16 (regs [(5, 0x0A)]) 0).pc = 0x204 ∧ (ran 0xE5A1#16 (regs [(5, 0x0A)]) 0x0400).pc = 0x202 := by
  decide +kernel
/-- V6.4a. -/
theorem test_ldVxDt : (ran 0xF307#16 { State.reset with dt := 0x3C }).v[3] = 0x3C := by decide +kernel
/-- V6.4b. -/
theorem test_ldDtVx : (ran 0xF315#16 (regs [(3, 0x3C)])).dt = 0x3C := by decide +kernel
/-- V6.4c. -/
theorem test_ldStVx : (ran 0xF318#16 (regs [(3, 0x02)])).st = 0x02 ∧ (ran 0xF318#16 (regs [(3, 0x02)])).soundOutput = true := by
  decide +kernel
/-- V1.9, the first step; V6.5b, the first step (a key held since the last step is no new press). -/
theorem test_ldVxK_blocked : let t := ran 0xF30A#16 State.reset
    let u := ran 0xF20A#16 { State.reset with kpPrev := 0x0020 } 0x0020
    t.lastStep = some .blocked ∧ t.pc = 0x200 ∧ t.statusByte = 0x02 ∧ u.lastStep = some .blocked := by decide +kernel
/-- V6.6, V6.5c. -/
theorem test_ldVxK : let t := ran 0xF20A#16 State.reset 0x0140
    let u := ran 0xF20A#16 (withParams { State.reset with kpPrev := 0x0020 } fun p => { p with keywaitMode := .level }) 0x0020
    t.v[2] = 6 ∧ t.pc = 0x202 ∧ t.kpPrev = 0x0140 ∧ u.v[2] = 5 := by decide +kernel

/-! ## Faults, status, reset and the host's calls -/

/-- V7.1a, V7.1b. -/
theorem test_fetch_top : let t := called (.step 0 0) { State.reset with pc := 0xFFF }
    t.lastStep = some (.fault (.fetchOutOfRange 0x0FFF)) ∧ t.statusByte = 0x44 ∧
    (ran 0x1234#16 { State.reset with pc := 0xFFE }).pc = 0x0234 := by decide +kernel
/-- V7.2: stuck, not halted. -/
theorem test_unknown : let t := ran 0xFFFF#16 State.reset
    t.lastStep = some (.fault (.unknownOpcode 0xFFFF#16)) ∧ t.halted = false ∧ t.pc = 0x200 := by decide +kernel
/-- V7.4: the first fault is kept. -/
theorem test_first_fault_kept : (ran 0x00EE#16 { State.reset with fault := 1 }).statusByte = 0x14 := by decide +kernel
/-- V6.9: a halted core answers HALTED. -/
theorem test_halted : let t := ran 0x6A2F#16 { State.reset with halted := true, fault := 3 } 0xFFFF
    t.lastStep = some .halted ∧ t.v[10] = 0 ∧ t.pc = 0x200 ∧ t.kpPrev = 0 := by decide +kernel
/-- V6.8, the first and the third tick. -/
theorem test_tick : let t := called .tickTimers { State.reset with dt := 2, st := 1 }
    let u := called .tickTimers { State.reset with dt := 0, st := 0 }
    t.dt = 1 ∧ t.st = 0 ∧ u.dt = 0 ∧ u.st = 0 := by decide +kernel
/-- V7.5. -/
theorem test_clearRedraw : (called .clearRedraw { State.reset with redraw := true }).redraw = false := by decide +kernel
/-- 60_exceptions.md R189. -/
theorem test_readPixel : (called (.readPixel 63 31) { State.reset with fb := lit [(63, 31)] }).reply = some (.pixel true) := by
  decide +kernel
/-- V9.1. -/
theorem test_reset : let t := called .reset { regs [(3, 7)] with halted := true, fault := 5, pc := 0x321, mem := [(0x300, 1)] }
    t.pc = 0x200 ∧ t.v[3] = 0 ∧ t.readByte 0x000 = 0xF0 ∧ t.readByte 0x001 = 0x90 ∧ t.readByte 0x300 = 0 ∧
    t.statusByte = 0 := by decide +kernel
/-- V9.2. -/
theorem test_nothing_loaded : (called (.step 0 0) State.reset).lastStep = some (.fault (.unknownOpcode 0x0000#16)) := by
  decide +kernel
/-- V9.3, V9.5. -/
theorem test_load_sizes : (called (.loadProgram (List.replicate 0xE01 0xAB)) State.reset).reply = some (.romTooLarge 3585) ∧
    (called (.loadProgram []) State.reset).reply = some .loadOk := by decide +kernel
/-- 70_reset_and_hazards.md R203: the ROM starts at 0x200 and PC stays. -/
theorem test_load : let t := called (.loadProgram [0x6A, 0x2F]) State.reset
    t.readByte 0x200 = 0x6A ∧ t.readByte 0x201 = 0x2F ∧ t.pc = 0x200 ∧ t.reply = some .loadOk := by decide +kernel

/-! ## The host's question, on one row of each kind -/

/-- `withFetchWord` makes the very next step run the instruction. -/
theorem test_withFetchWord : (ended (step (State.reset.withFetchWord 16 0x1ABC))).pc = 0xABC ∧
    (ended (step (State.reset.withFetchWord 16 0x6A2F))).v[10] = 0x2F := by decide +kernel

/-! ## Witnesses: concrete states and operands that meet the hypotheses of each obligation -/

/-- A state about to take `step` calls with the listed word at PC. -/
def stepping (w : Word) : State := atWord w State.reset

theorem witness_DecodeOfEncodeIsTheInstruction : (Instr.sys 0x0ED#12).wellFormed = true ∧
    (Instr.drw 0xF 0xF 0xF#4).wellFormed = true := by decide
theorem witness_EncodeOfDecodedIsTheWord : decodeWord 0x5121#16 = .instr (.seReg 1 2) ∧
    decodeWord 0xD015#16 = .instr (.drw 0 1 0x5#4) := by decide
theorem witness_DecodeFollowsThePatterns :
    (wordNNN 0x0#4 0x1E0#12 ≠ 0x00E0#16 ∧ wordNNN 0x0#4 0x1E0#12 ≠ 0x00EE#16) ∧
    0xF#4 ∈ [0x8#4, 0x9#4, 0xA#4, 0xB#4, 0xC#4, 0xD#4, 0xF#4] ∧ 0x9F#8 ∉ [0x9E#8, 0xA1#8] ∧
    0x1F#8 ∉ [0x07#8, 0x0A#8, 0x15#8, 0x18#8, 0x1E#8, 0x29#8, 0x33#8, 0x55#8, 0x65#8] := by decide
theorem witness_FetchIsBigEndian : ({ State.reset with pc := 0xFFE } : State).pc.toNat + 1 ≤ 0xFFF ∧
    0xFFF < ({ State.reset with pc := 0xFFF } : State).pc.toNat + 1 := by decide
theorem witness_StepRunsTheDecodedInstruction :
    (stepping 0x6A2F#16).halted = false ∧ (stepping 0x6A2F#16).pc.toNat + 1 ≤ 0xFFF ∧
    decodeBytes ((stepping 0x6A2F#16).readByte (stepping 0x6A2F#16).pc.toNat)
      ((stepping 0x6A2F#16).readByte ((stepping 0x6A2F#16).pc.toNat + 1)) = .instr (.ldImm 0xA 0x2F#8) ∧
    (stepping 0x6A2F#16).script = [.step 0 0] ∧
    ({ stepping 0x6A2F#16 with script := [] } : State).script = [] := by decide +kernel
theorem witness_StepChecksBeforeExecuting :
    (stepping 0xFFFF#16).nextCall = .step 0 0 ∧ (stepping 0xFFFF#16).halted = false ∧
    (stepping 0xFFFF#16).pc.toNat + 1 ≤ 0xFFF ∧
    decodeBytes ((stepping 0xFFFF#16).readByte 0x200) ((stepping 0xFFFF#16).readByte 0x201) = .unknown 0xFFFF#16 ∧
    ({ stepping 0xFFFF#16 with halted := true } : State).halted = true ∧
    0xFFF < ({ stepping 0xFFFF#16 with pc := 0xFFF } : State).pc.toNat + 1 := by decide +kernel
theorem witness_EveryStepAnswersANextState : (stepping 0x00E0#16).nextCall = .step 0 0 := by decide +kernel
theorem witness_RaisingStepChangesOnlyFaultAndHalted : (stepping 0x00EE#16).nextCall = .step 0 0 ∧
    step (stepping 0x00EE#16) = .next (ended (step (stepping 0x00EE#16))) ∧
    (ended (step (stepping 0x00EE#16))).lastStep = some (.fault .stackUnderflow) := ⟨rfl, rfl, rfl⟩
theorem witness_SysRaisesOrAdvances :
    (wordNNN 0x0#4 0x123#12 ≠ 0x00E0#16 ∧ wordNNN 0x0#4 0x123#12 ≠ 0x00EE#16) ∧
    State.reset.params.sysMode = .unknown ∧
    (withParams .reset fun p => { p with sysMode := .nop }).params.sysMode = .nop := by decide
theorem witness_RetPopsOrUnderflows : ({ State.reset with sp := 1 } : State).sp = (0 : Fin 16).succ ∧
    ({ State.reset with sp := 16 } : State).sp = (15 : Fin 16).succ ∧ State.reset.sp = 0 := by decide
theorem witness_CallPushesOrOverflows : State.reset.sp = (0 : Fin 16).castSucc ∧
    ({ State.reset with sp := 15 } : State).sp = (15 : Fin 16).castSucc ∧
    ({ State.reset with sp := 16 } : State).sp = 16 := by decide
theorem witness_RetReturnsAfterItsCall : State.reset.sp ≠ 16 ∧
    (ended (exec (.call 0x304#12) State.reset)).stack = (ended (exec (.call 0x304#12) State.reset)).stack ∧
    (ended (exec (.call 0x304#12) State.reset)).sp = 1 := by decide +kernel
theorem witness_LdBStoresBcdDigits :
    0xFFF < ({ State.reset with i := 0xFFE } : State).i.toNat + 2 ∧
    ({ State.reset with i := 0x04F } : State).i.toNat ≤ 0x04F ∧
    (0x04F < ({ State.reset with i := 0x050 } : State).i.toNat ∧ ({ State.reset with i := 0xFFD } : State).i.toNat + 2 ≤ 0xFFF) ∧
    0x04F < ({ State.reset with i := 0xFFD } : State).i.toNat ∧
    ({ State.reset with i := 0xFFD } : State).MemoryCanonical := by
  refine ⟨by decide, by decide, ⟨by decide, by decide⟩, by decide, rfl⟩
theorem witness_LdMemVxStoresTheRegisters :
    0xFFF < ({ State.reset with i := 0xFF1 } : State).i.toNat + (15 : Reg) ∧
    ({ State.reset with i := 0x04F } : State).i.toNat ≤ 0x04F ∧
    0x04F < ({ State.reset with i := 0xFF0 } : State).i.toNat ∧
    ({ State.reset with i := 0xFF0 } : State).i.toNat + (15 : Reg) ≤ 0xFFF ∧
    ({ State.reset with i := 0xFF0 } : State).MemoryCanonical ∧ (15 : Reg) ≤ 15 := by
  refine ⟨by decide, by decide, by decide, by decide, rfl, by decide⟩
theorem witness_LdVxMemLoadsTheRegisters :
    0xFFF < ({ State.reset with i := 0xFFC } : State).i.toNat + (4 : Reg) ∧
    ({ State.reset with i := 0xFFB } : State).i.toNat + (4 : Reg) ≤ 0xFFF := by decide
theorem witness_StoreThenLoadRestoresTheRegisters : ({ State.reset with i := 0x300 } : State).MemoryCanonical ∧
    0x04F < ({ State.reset with i := 0x300 } : State).i.toNat ∧
    ({ State.reset with i := 0x300 } : State).i.toNat + (7 : Reg) ≤ 0xFFF ∧ (7 : Reg) ≤ 7 := by
  refine ⟨rfl, by decide, by decide, by decide⟩
theorem witness_StoredWordIsFetched :
    (({ State.reset with i := 0xFFD } : State).MemoryCanonical ∧
      0x04F < ({ State.reset with i := 0xFFD } : State).i.toNat ∧
      ({ State.reset with i := 0xFFD } : State).i.toNat + 2 ≤ 0xFFF) ∧
    (({ State.reset with i := 0xFFF } : State).MemoryCanonical ∧
      0x04F < ({ State.reset with i := 0xFFF } : State).i.toNat ∧
      ({ State.reset with i := 0xFFF } : State).i.toNat + (0 : Reg) ≤ 0xFFF) ∧
    ({ State.reset with i := 0x050 } : State).i.toNat + (15 : Reg) ≤ 0xFFF := by
  refine ⟨⟨rfl, by decide, by decide⟩, ⟨rfl, by decide, by decide⟩, by decide⟩
/-- The states `FetchSeesStored` speaks of: one with the stored memory and PC at the byte before a single stored byte. -/
theorem witness_FetchSeesStored : let t := ended (exec (.ldMemVx 0) { State.reset with i := 0x300 })
    ({ t with pc := 0x2FF } : State).mem = t.mem ∧ ({ t with pc := 0x2FF } : State).params = t.params ∧
    ({ t with pc := 0x2FF } : State).pc.toNat + 1 ≤ 0xFFF := ⟨rfl, rfl, by decide⟩
/-- A hit pixel that is set (V4.3, glyph 0 drawn twice), one that is not hit, under wrap and under clip; and a state
where every hit pixel is clear. -/
theorem witness_DrwTogglesTheSpritePixels :
    (SpriteHits { State.reset with fb := lit [(0, 0)] } 0 1 0x5#4 0 0 ∧
      ({ State.reset with fb := lit [(0, 0)] } : State).fb.pixel 0 0 = true) ∧
    SpriteHits (withParams .reset fun p => { p with drawEdge := .clip }) 0 1 0x5#4 0 0 ∧
    ¬ SpriteHits State.reset 0 1 0x0#4 0 0 ∧
    (∀ px py, SpriteHits State.reset 0 1 0x5#4 px py → State.reset.fb.pixel px py = false) := by
  refine ⟨⟨⟨0, 0, by decide, by decide, by decide, by decide +kernel, by decide +kernel, by decide +kernel⟩,
    by decide +kernel⟩, ⟨0, 0, by decide, by decide, by decide, by decide +kernel, by decide +kernel, by decide +kernel⟩, ?_, ?_⟩
  · rintro ⟨r, -, h, -⟩
    exact absurd h (Nat.not_lt_zero r)
  · intro px py _
    simp [State.reset, State.resetWith, Frame.pixel]
theorem witness_KeySkips : (0xF < ((regs [(5, 0x10)]).v[(5 : Reg)]).toNat ∧ (Instr.skp 5 = .skp 5 ∨ Instr.skp 5 = .sknp 5)) ∧
    ((regs [(5, 0x0F)]).v[(5 : Reg)]).toNat ≤ 0xF := by decide +kernel
theorem witness_KeyWaitBlocksOrTakesANewPress :
    (∀ k, ¬ NewlyPressed { State.reset with keys := 0x0020, kpPrev := 0x0020 } k) ∧
    (NewlyPressed { State.reset with keys := 0x0140 } 6 ∧ NewlyPressed { State.reset with keys := 0x0140 } 8) ∧
    State.reset.params.keywaitPick = .lowest := by
  unfold NewlyPressed
  decide +kernel
theorem witness_OnlyNamedRegistersAreWritten : exec (.addReg 0 1) State.reset = .next (ended (exec (.addReg 0 1) .reset)) ∧
    mayWriteReg (.addReg 0 1) 2 = false := ⟨rfl, rfl⟩
theorem witness_OnlyThreeInstructionsWriteIndex : exec (.ldB 3) State.reset = .next (ended (exec (.ldB 3) .reset)) ∧
    (∀ nnn, Instr.ldB 3 ≠ .ldI nnn) ∧ (∀ x, Instr.ldB 3 ≠ .addI x) ∧ (∀ x, Instr.ldB 3 ≠ .ldF x) :=
  ⟨rfl, nofun, nofun, nofun⟩
theorem witness_OnlyCallAndRetTouchTheStack : exec .cls State.reset = .next (ended (exec .cls .reset)) ∧
    (∀ nnn, Instr.cls ≠ .call nnn) ∧ Instr.cls ≠ .ret ∧ (15 : Fin 16).val ≠ State.reset.sp.val := by
  exact ⟨rfl, nofun, nofun, by decide⟩
theorem witness_OnlyTimerWritesChangeTimers : exec (.ldStVx 3) State.reset = .next (ended (exec (.ldStVx 3) .reset)) ∧
    (∀ x, Instr.ldStVx 3 ≠ .ldDtVx x) ∧ (∀ x, Instr.ldDtVx 3 ≠ .ldStVx x) := ⟨rfl, nofun, nofun⟩
theorem witness_OnlyClsAndDrwTouchTheScreen : exec (.ldF 3) { State.reset with redraw := true } =
      .next (ended (exec (.ldF 3) { State.reset with redraw := true })) ∧
    Instr.ldF 3 ≠ .cls ∧ (∀ x y n, Instr.ldF 3 ≠ .drw x y n) ∧ ({ State.reset with redraw := true } : State).redraw = true :=
  ⟨rfl, nofun, nofun, rfl⟩
theorem witness_OnlyStoredBytesChange :
    exec (.ldB 3) { State.reset with i := 0x300 } = .next (ended (exec (.ldB 3) { State.reset with i := 0x300 })) ∧
    (∀ x, Instr.ldB 3 = .ldB x → 0x303 < ({ State.reset with i := 0x300 } : State).indexAddr ∨
      ({ State.reset with i := 0x300 } : State).indexAddr + 2 < 0x303) ∧
    (∀ x, Instr.ldB 3 = .ldMemVx x → 0x303 < ({ State.reset with i := 0x300 } : State).indexAddr ∨
      ({ State.reset with i := 0x300 } : State).indexAddr + x.val < 0x303) ∧
    exec (.ldMemVx 1) { State.reset with i := 0x300 } = .next (ended (exec (.ldMemVx 1) { State.reset with i := 0x300 })) ∧
    (∀ x, Instr.ldMemVx 1 = .ldB x → 0x302 < ({ State.reset with i := 0x300 } : State).indexAddr ∨
      ({ State.reset with i := 0x300 } : State).indexAddr + 2 < 0x302) ∧
    (∀ x, Instr.ldMemVx 1 = .ldMemVx x → 0x302 < ({ State.reset with i := 0x300 } : State).indexAddr ∨
      ({ State.reset with i := 0x300 } : State).indexAddr + x.val < 0x302) := by
  refine ⟨rfl, fun _ _ => .inr (by decide), nofun, rfl, nofun, fun x h => ?_⟩
  cases h
  exact .inr (by decide)
theorem witness_PcAdvancesByRule :
    (exec .ret State.reset = .next (ended (exec .ret .reset)) ∧ (ended (exec .ret .reset)).lastStep ≠ some .ok) ∧
    (exec (.seImm 3 0) State.reset = .next (ended (exec (.seImm 3 0) .reset)) ∧
      (ended (exec (.seImm 3 0) .reset)).lastStep = some .ok ∧ isSkip (.seImm 3 0) = true) ∧
    exec .cls State.reset = .next (ended (exec .cls .reset)) ∧ (ended (exec .cls .reset)).lastStep = some .ok ∧
      isSkip .cls = false ∧ isTransfer .cls = false :=
  ⟨⟨rfl, by decide +kernel⟩, ⟨rfl, rfl, rfl⟩, rfl, rfl, rfl, rfl⟩
theorem witness_StatusFollowsTheResult : exec (.ldVxK 3) State.reset = .next (ended (exec (.ldVxK 3) .reset)) := rfl
theorem witness_InstructionsLeaveTheInputs : exec (.rnd 3 0x0F#8) State.reset = .next (ended (exec (.rnd 3 0x0F#8) .reset)) := rfl
theorem witness_TickDecrementsTheTimers : ({ State.reset with script := [.tickTimers] } : State).script = .tickTimers :: [] := rfl
theorem witness_LoadProgramWritesTheRom :
    ({ State.reset with script := [.loadProgram [0x12, 0x00]] } : State).script = .loadProgram [0x12, 0x00] :: [] ∧
    [(0x12 : Byte), 0x00].length ≤ 0xE00 ∧ (0xE00 < (List.replicate 0xE01 (0xAB : Byte)).length ∧
    (List.replicate 0xE00 (0xAB : Byte)).length ≤ 0xE00) ∧
    ({ State.reset with script := [.loadProgram [0x12, 0x00]] } : State).MemoryCanonical ∧
    1 < [(0x12 : Byte), 0x00].length := by
  refine ⟨rfl, by decide, ⟨?_, ?_⟩, rfl, by decide⟩ <;> rw [List.length_replicate]
  decide
theorem witness_ClearRedrawAndReadPixel :
    ({ State.reset with script := [.clearRedraw] } : State).script = .clearRedraw :: [] ∧
    ({ State.reset with script := [.readPixel 63 31] } : State).script = .readPixel 63 31 :: [] := ⟨rfl, rfl⟩
theorem witness_ResetPutsTheResetTable :
    ({ State.reset with halted := true, script := [.reset] } : State).script = .reset :: [] := rfl
theorem witness_StepKeepsMemoryCanonical :
    ({ stepping 0xF533#16 with i := 0x300 } : State).MemoryCanonical ∧
    step { stepping 0xF533#16 with i := 0x300 } = .next (ended (step { stepping 0xF533#16 with i := 0x300 })) := by
  refine ⟨?_, rfl⟩
  unfold State.MemoryCanonical
  decide +kernel
theorem witness_FontIsNeverOverwritten : step (stepping 0x00E0#16) = .next (ended (step (stepping 0x00E0#16))) ∧
    (stepping 0x00E0#16).nextCall ≠ .reset ∧ (stepping 0x00E0#16).FontIntact := by
  refine ⟨rfl, by decide +kernel, ?_⟩
  unfold State.FontIntact
  decide +kernel
theorem witness_StepKeepsStatusConsistent : (stepping 0x00EE#16).StatusConsistent ∧
    step (stepping 0x00EE#16) = .next (ended (step (stepping 0x00EE#16))) :=
  ⟨⟨by decide, by decide, by decide⟩, rfl⟩
theorem witness_ReachableStatesMeetTheInvariants : State.Reachable State.reset := .boot defaultParams []
theorem witness_ParametersNeverChange : step (stepping 0x00E0#16) = .next (ended (step (stepping 0x00E0#16))) := rfl
theorem witness_OnlyResetClearsFaultOrMovesAHaltedCore :
    let s : State := { stepping 0x6A2F#16 with fault := 3, halted := true }
    step s = .next (ended (step s)) ∧ s.nextCall ≠ .reset ∧ s.fault ≠ 0 ∧ s.halted = true :=
  ⟨rfl, by decide +kernel, by decide, rfl⟩
theorem witness_SpinStepChangesOnlyModeAndLatch : (stepping 0x1200#16).SpinEnd ∧ (stepping 0x1200#16).halted = false ∧
    (stepping 0x1200#16).nextCall = .step 0 0 := by
  refine ⟨⟨0x1200#16, by decide +kernel, 0x200#12, by decide, by decide⟩, rfl, rfl⟩

end Sys2Proof.Tests
end

/-! No parameter changes while the core runs (00_scope.md R9): `reset` and every `step` call keep `params`, and
so does every call of the host. -/

namespace Sys2Proof.Machine

@[simp] theorem State.resetCall_params (s : State) : s.resetCall.params = s.params := rfl

/-- A `step` call keeps the configuration: it stays halted, raises, blocks or completes, and each end keeps it. -/
theorem State.stepCall_params {s t : State} (h : s.stepCall = .next t) : t.params = s.params := by
  rcases State.stepCall_outcome h with ⟨-, rfl⟩ | ⟨-, ⟨f, rfl⟩ | rfl | ⟨u, rfl, hu⟩⟩
  · exact State.stayHalted_params s
  · exact State.raise_params s f
  · exact State.blocked_params s
  · exact (State.completed_params u).trans hu.params

/-- Settles O57, by the host's next call: a `step` call keeps the parameters by `State.stepCall_params`, and
`reset` restarts the core under the same ones. -/
theorem parametersNeverChange : Obligations.ParametersNeverChange := by
  unfold Obligations.ParametersNeverChange
  intro s t h
  rcases step_cases h with
    ⟨keys, rnd, -, hstep⟩ | ⟨-, rfl⟩ | ⟨rom, -, rfl⟩ | ⟨-, rfl⟩ | ⟨-, rfl⟩ | ⟨x, y, -, rfl⟩
  case inl => simpa using State.stepCall_params hstep
  all_goals simp

end Sys2Proof.Machine

/-! The status (10_state.md R32): FAULT and HALTED agree after reset, taking a fault keeps them in agreement, and
every other end of a step leaves both. -/

namespace Sys2Proof.Machine

/-- Agreement of FAULT and HALTED depends on these two fields only. -/
theorem State.StatusConsistent.congr {s t : State} (hs : s.StatusConsistent) (hf : t.fault = s.fault)
    (hh : t.halted = s.halted) : t.StatusConsistent := by
  constructor
  · rw [hf]; exact hs.codeUsed
  · rw [hf, hh]; exact hs.haltedHasFault
  · rw [hf, hh]; exact hs.fatalHalts

theorem State.resetWith_statusConsistent (p : Params) : (State.resetWith p).StatusConsistent :=
  ⟨Nat.zero_le 7, nofun, nofun⟩

theorem StepFault.code_le (f : StepFault) : f.code.toNat ≤ 7 := by cases f <;> simp [StepFault.code]

theorem StepFault.code_ne_zero (f : StepFault) : f.code ≠ 0 := by cases f <;> simp [StepFault.code]

/-- Every code but UNKNOWN_OPCODE's is that of a fatal fault (60_exceptions.md R171). -/
theorem StepFault.fatal_of_two_le_code {f : StepFault} (h : 2 ≤ f.code.toNat) : f.fatal = true := by
  cases f with
  | unknownOpcode w => simp [StepFault.code] at h
  | _ => rfl

/-- Taking a fault keeps the agreement: a first fault brings its own code and halt, a later one leaves FAULT and
can only set HALTED. -/
theorem State.StatusConsistent.raise {s : State} (hs : s.StatusConsistent) (f : StepFault) :
    (s.raise f).StatusConsistent := by
  by_cases h0 : s.fault = 0
  · have hf : (s.raise f).fault = f.code := if_pos h0
    constructor
    · rw [hf]; exact f.code_le
    · intro _; rw [hf]; exact f.code_ne_zero
    · rw [hf, raise_halted]
      intro h
      rw [StepFault.fatal_of_two_le_code h, Bool.or_true]
  · have hf : (s.raise f).fault = s.fault := if_neg h0
    constructor
    · rw [hf]; exact hs.codeUsed
    · intro _; rw [hf]; exact h0
    · rw [hf, raise_halted]
      intro h
      rw [hs.fatalHalts h, Bool.true_or]

theorem State.stepCall_statusConsistent {s t : State} (hs : s.StatusConsistent) (h : s.stepCall = .next t) :
    t.StatusConsistent := by
  rcases State.stepCall_outcome h with ⟨-, rfl⟩ | ⟨-, ⟨f, rfl⟩ | rfl | ⟨u, rfl, hu⟩⟩
  · exact hs.congr rfl rfl
  · exact hs.raise f
  · exact hs.congr rfl rfl
  · exact hs.congr hu.fault hu.halted

/-- Settles O54, by the host's next call: a `step` call keeps the agreement by `State.stepCall_statusConsistent`,
`reset` restores it, and the other calls leave FAULT and HALTED. -/
theorem stepKeepsStatusConsistent : Obligations.StepKeepsStatusConsistent := by
  unfold Obligations.StepKeepsStatusConsistent
  intro s t hs h
  rcases step_cases h with
    ⟨keys, rnd, -, hstep⟩ | ⟨-, rfl⟩ | ⟨rom, -, rfl⟩ | ⟨-, rfl⟩ | ⟨-, rfl⟩ | ⟨x, y, -, rfl⟩
  · have hs' : (s.takeCall.present keys rnd).StatusConsistent := hs.congr rfl rfl
    exact State.stepCall_statusConsistent hs' hstep
  · exact (State.resetWith_statusConsistent s.params).congr rfl rfl
  · exact hs.congr (State.loadProgram_fault _ rom) (State.loadProgram_halted _ rom)
  all_goals exact hs.congr rfl rfl

/-- A `step` call keeps a fault already on record. -/
theorem State.stepCall_fault {s t : State} (h : s.stepCall = .next t) (h0 : s.fault ≠ 0) : t.fault = s.fault := by
  rcases State.stepCall_outcome h with ⟨-, rfl⟩ | ⟨-, ⟨f, rfl⟩ | rfl | ⟨u, rfl, hu⟩⟩
  · rfl
  · exact if_neg h0
  · rfl
  · exact hu.fault

/-- Settles O58, by the host's next call: a `step` call keeps a recorded fault and leaves a halted core as it is,
and no other call but `reset` writes what the statement names. -/
theorem onlyResetClearsFaultOrMovesAHaltedCore : Obligations.OnlyResetClearsFaultOrMovesAHaltedCore := by
  unfold Obligations.OnlyResetClearsFaultOrMovesAHaltedCore
  intro s t h hr
  rcases step_cases h with
    ⟨keys, rnd, -, hstep⟩ | ⟨hreset, -⟩ | ⟨rom, -, rfl⟩ | ⟨-, rfl⟩ | ⟨-, rfl⟩ | ⟨x, y, -, rfl⟩
  · refine ⟨State.stepCall_fault (s := s.takeCall.present keys rnd) hstep, fun hh => ?_⟩
    have hstay := State.stepCall_halted (s := s.takeCall.present keys rnd) hh
    rw [hstep] at hstay
    cases hstay
    simp [hh]
  · exact absurd hreset hr
  all_goals simp

end Sys2Proof.Machine

/-! The frames (10_state.md R18-R32): the ways an instruction can end, each with the fields it writes, and which
instructions can end so. A frame of `exec` then looks only at the ends that write the field in question. -/

namespace Sys2Proof.Machine

/-- The register file `v'` differs from `v` at most in the registers R18 names for `i`. -/
def KeepsUnnamedRegs (i : Instr) (v v' : RegFile) : Prop := ∀ k : Reg, mayWriteReg i k = false → v'[k] = v[k]

theorem KeepsUnnamedRegs.refl (i : Instr) (v : RegFile) : KeepsUnnamedRegs i v v := fun _ _ => rfl

/-- Writing a register R18 names keeps the others. -/
theorem KeepsUnnamedRegs.set {i : Instr} {v v' : RegFile} (h : KeepsUnnamedRegs i v v') {x : Reg}
    (hx : mayWriteReg i x = true) (b : Byte) : KeepsUnnamedRegs i v (v'.set x b) := by
  intro k hk
  have hne : x.val ≠ k.val := fun e => by simp [← Fin.ext e, hx] at hk
  exact (Vector.getElem_set_ne _ _ hne).trans (h k hk)

/-- The ways instruction `i` can end from `s`: a fault, a block, a skip, a jump, RET's pop, CALL's push, and the
advancing ends by what they write. Each carries which instructions have it, so far as the frames need it. -/
inductive InstrEnd (i : Instr) (s : State) : State → Prop
  | raise (f : StepFault) : InstrEnd i s (s.raise f)
  | blocked (x : Reg) (hi : i = .ldVxK x) : InstrEnd i s s.blocked
  | skip (c : Bool) (hi : isSkip i = true) : InstrEnd i s (s.skipIf c).completed
  | jump (w : Word) (hi : isTransfer i = true) : InstrEnd i s (s.jumpTo w).completed
  | pop (n : Fin 17) (w : Word) (hi : i = .ret) : InstrEnd i s (State.completed { s with sp := n, pc := w })
  | push (h : s.sp.val < 16) (n : Fin 17) (nnn : Addr12) (hi : i = .call nnn) :
      InstrEnd i s (State.completed { s with
        stack := s.stack.set s.sp.val s.pc, sp := n, pc := zext16OfAddr nnn })
  | regs {v' : RegFile} (hv : KeepsUnnamedRegs i s.v v') : InstrEnd i s (State.done { s with v := v' })
  | storeDigits (x : Reg) (hi : i = .ldB x) : InstrEnd i s (s.storeBytes s.indexAddr (bcdDigits (s.getV x))).done
  | storeRegs (x : Reg) (hi : i = .ldMemVx x) : InstrEnd i s (s.storeBytes s.indexAddr (s.firstV x)).done
  | delayTimer (x : Reg) (hi : i = .ldDtVx x) : InstrEnd i s (State.done { s with dt := s.getV x })
  | soundTimer (x : Reg) (hi : i = .ldStVx x) : InstrEnd i s (State.done { s with st := s.getV x })
  | index {v' : RegFile} (hv : KeepsUnnamedRegs i s.v v') (w : Word)
      (hi : (∃ nnn, i = .ldI nnn) ∨ (∃ x, i = .addI x) ∨ ∃ x, i = .ldF x) :
      InstrEnd i s (State.done { s with i := w, v := v' })
  | screen {v' : RegFile} (hv : KeepsUnnamedRegs i s.v v') (fb : Frame) (hi : i = .cls ∨ ∃ x y n, i = .drw x y n) :
      InstrEnd i s (State.done { s with v := v', fb := fb, redraw := true })

variable {i : Instr} {s : State}

theorem InstrEnd.setV {x : Reg} (hx : mayWriteReg i x = true) (b : Byte) : InstrEnd i s (s.setV x b).done :=
  .regs (.set (.refl i s.v) hx b)

theorem InstrEnd.writeAlu {x : Reg} (hx : mayWriteReg i x = true) (hf : mayWriteReg i Reg.vf = true) (r f : Byte) :
    InstrEnd i s (s.writeAlu x r f).done := by
  unfold State.writeAlu
  split
  · exact .regs (.set (.set (.refl i s.v) hx r) hf f)
  · exact .regs (.set (.set (.refl i s.v) hf f) hx r)

theorem InstrEnd.writeShift {x : Reg} (hx : mayWriteReg i x = true) (hf : mayWriteReg i Reg.vf = true)
    (g d : Byte → Byte) : InstrEnd i s (s.writeShift x g d).done := by
  unfold State.writeShift
  split
  · exact .regs (.set (.set (.refl i s.v) hf _) hx _)
  · exact .regs (.set (.set (.refl i s.v) hx _) hf _)

/-- Loading V0..VX writes no register above VX. -/
theorem InstrEnd.loadV (s : State) (base : Nat) (x : Reg) : InstrEnd (.ldVxMem x) s (s.loadV base x).done := by
  refine .regs fun k hk => (State.loadV_getElem s base x k).trans (if_neg ?_)
  simpa [mayWriteReg] using hk

/-! ## Every instruction's ends -/

/-- Every instruction ends in one of these ways. -/
theorem exec_end {t : State} (h : exec i s = .next t) : InstrEnd i s t := by
  cases i <;> cases h
  case sys nnn =>
    split
    · exact .raise _
    · exact .regs (.refl _ _)
  case ret =>
    split
    · exact .pop _ _ rfl
    · exact .raise _
  case call nnn =>
    split
    · next hlt => exact .push hlt _ nnn rfl
    · exact .raise _
  case jp nnn | jpV0 nnn => exact .jump _ rfl
  case seImm x nn | sneImm x nn => exact .skip _ rfl
  case seReg x y | sneReg x y => exact .skip _ rfl
  case skp x | sknp x =>
    split
    · exact .raise _
    · exact .skip _ rfl
  case cls => exact .screen (.refl _ _) _ (.inl rfl)
  case drw x y n => exact .screen (.set (.refl _ _) rfl _) _ (.inr ⟨x, y, n, rfl⟩)
  case ldI nnn => exact .index (.refl _ _) _ (.inl ⟨nnn, rfl⟩)
  case addI x => exact .index (.set (.refl _ _) rfl _) _ (.inr (.inl ⟨x, rfl⟩))
  case ldF x => exact .index (.refl _ _) _ (.inr (.inr ⟨x, rfl⟩))
  case ldDtVx x => exact .delayTimer x rfl
  case ldStVx x => exact .soundTimer x rfl
  case ldVxK x =>
    split
    · exact .blocked x rfl
    · exact .setV (by simp [mayWriteReg]) _
  case ldB x =>
    split
    · exact .raise _
    · exact .storeDigits x rfl
  case ldMemVx x =>
    split
    · exact .raise _
    · exact .storeRegs x rfl
  case ldVxMem x =>
    split
    · exact .raise _
    · exact .loadV s _ x
  case addReg x y | subReg x y | subnReg x y =>
    exact .writeAlu (by simp [mayWriteReg]) (by simp [mayWriteReg]) _ _
  case shr x y | shl x y => exact .writeShift (by simp [mayWriteReg]) (by simp [mayWriteReg]) _ _
  case ldImm x nn | addImm x nn | rnd x nn => exact .setV (by simp [mayWriteReg]) _
  case ldReg x y | orReg x y | andReg x y | xorReg x y => exact .setV (by simp [mayWriteReg]) _
  case ldVxDt x => exact .setV (by simp [mayWriteReg]) _

/-! ## The frames -/

/-- Settles O38: an end that changes the register file keeps the registers R18 does not name. -/
theorem onlyNamedRegistersAreWritten : Obligations.OnlyNamedRegistersAreWritten := by
  unfold Obligations.OnlyNamedRegistersAreWritten
  intro i s t h k hk
  cases exec_end h with
  | regs hv => exact hv k hk
  | index hv => exact hv k hk
  | screen hv => exact hv k hk
  | _ => rfl

/-- Settles O39: one end writes I, and only ANNN, FX1E and FX29 have it. -/
theorem onlyThreeInstructionsWriteIndex : Obligations.OnlyThreeInstructionsWriteIndex := by
  unfold Obligations.OnlyThreeInstructionsWriteIndex
  intro i s t h hldI haddI hldF
  cases exec_end h with
  | index hv w hi =>
    obtain ⟨nnn, hi⟩ | ⟨x, hi⟩ | ⟨x, hi⟩ := hi
    · exact absurd hi (hldI nnn)
    · exact absurd hi (haddI x)
    · exact absurd hi (hldF x)
  | _ => rfl

/-- Settles O40: RET's end writes SP alone of the two, CALL's writes SP and slot SP. -/
theorem onlyCallAndRetTouchTheStack : Obligations.OnlyCallAndRetTouchTheStack := by
  unfold Obligations.OnlyCallAndRetTouchTheStack
  intro i s t h
  cases exec_end h with
  | pop n w hi => exact ⟨fun _ => ⟨rfl, fun hret => absurd hi hret⟩, fun _ _ => rfl⟩
  | push hlt n nnn hi =>
    exact ⟨fun hcall => absurd hi (hcall nnn), fun k hk => Vector.getElem_set_ne hlt k.isLt (Ne.symm hk)⟩
  | _ => exact ⟨fun _ => ⟨rfl, fun _ => rfl⟩, fun _ _ => rfl⟩

/-- Settles O41: one end writes DT and one writes ST. -/
theorem onlyTimerWritesChangeTimers : Obligations.OnlyTimerWritesChangeTimers := by
  unfold Obligations.OnlyTimerWritesChangeTimers
  intro i s t h
  cases exec_end h with
  | delayTimer x hi => exact ⟨fun hdt => absurd hi (hdt x), fun _ => rfl⟩
  | soundTimer x hi => exact ⟨fun _ => rfl, fun hst => absurd hi (hst x)⟩
  | _ => exact ⟨fun _ => rfl, fun _ => rfl⟩

/-- Settles O42: one end writes the screen, it sets REDRAW, and only CLS and DRW have it. -/
theorem onlyClsAndDrwTouchTheScreen : Obligations.OnlyClsAndDrwTouchTheScreen := by
  unfold Obligations.OnlyClsAndDrwTouchTheScreen
  intro i s t h
  cases exec_end h with
  | screen hv fb hi =>
    refine ⟨fun hcls hdrw => ?_, fun _ => rfl⟩
    obtain hi | ⟨x, y, n, hi⟩ := hi
    · exact absurd hi hcls
    · exact absurd hi (hdrw x y n)
  | _ => exact ⟨fun _ _ => ⟨rfl, rfl⟩, id⟩

theorem isSkip_eq_false_of_isTransfer (h : isTransfer i = true) : isSkip i = false := by
  cases i <;> simp [isTransfer, isSkip] at h ⊢

/-- Where PC may be after an instruction, by the result (10_state.md R22). -/
def PcFollowsRule (i : Instr) (s t : State) : Prop :=
  (t.lastStep ≠ some .ok → t.pc = s.pc) ∧
  (t.lastStep = some .ok → isSkip i = true → t.pc = s.pc + 2 ∨ t.pc = s.pc + 4) ∧
  (t.lastStep = some .ok → isSkip i = false → isTransfer i = false → t.pc = s.pc + 2)

/-- An end without OK may not move PC. -/
theorem PcFollowsRule.of_not_ok {t : State} (hr : t.lastStep ≠ some .ok) (hpc : t.pc = s.pc) :
    PcFollowsRule i s t :=
  ⟨fun _ => hpc, fun h => absurd h hr, fun h => absurd h hr⟩

/-- A control transfer that completes may put PC anywhere. -/
theorem PcFollowsRule.of_transfer (hi : isTransfer i = true) (u : State) : PcFollowsRule i s u.completed :=
  ⟨fun h => absurd rfl h, fun _ hs => by simp [isSkip_eq_false_of_isTransfer hi] at hs,
    fun _ _ ht => by simp [hi] at ht⟩

theorem PcFollowsRule.of_skip (hi : isSkip i = true) (c : Bool) : PcFollowsRule i s (s.skipIf c).completed := by
  refine ⟨fun h => absurd rfl h, fun _ _ => ?_, fun _ hs => by simp [hi] at hs⟩
  cases c with
  | true => exact .inr rfl
  | false => exact .inl rfl

theorem PcFollowsRule.of_done {u : State} (hpc : u.pc = s.pc) : PcFollowsRule i s u.done :=
  have h2 : u.done.pc = s.pc + 2 := by rw [State.done_pc, hpc]
  ⟨fun h => absurd rfl h, fun _ _ => .inl h2, fun _ _ _ => h2⟩

/-- Settles O44: PC follows the rule at every end. -/
theorem pcAdvancesByRule : Obligations.PcAdvancesByRule := by
  unfold Obligations.PcAdvancesByRule
  intro i s t h
  change PcFollowsRule i s t
  cases exec_end h with
  | raise f => exact .of_not_ok (by simp) rfl
  | blocked => exact .of_not_ok (by simp) rfl
  | skip c hi => exact .of_skip hi c
  | jump w hi => exact .of_transfer hi _
  | pop n w hi => exact .of_transfer (hi ▸ rfl) _
  | push hlt n nnn hi => exact .of_transfer (hi ▸ rfl) _
  | _ => exact .of_done rfl

/-- Settles O45: a raise, a block and a completion each leave the status the result gives. -/
theorem statusFollowsTheResult : Obligations.StatusFollowsTheResult := by
  unfold Obligations.StatusFollowsTheResult
  intro i s t h
  cases exec_end h with
  | raise f => exact .inr (.inr ⟨f, rfl, rfl, rfl, rfl, rfl⟩)
  | blocked x hi => exact .inr (.inl ⟨rfl, ⟨x, hi⟩, rfl, rfl, rfl, rfl⟩)
  | _ => exact .inl ⟨rfl, rfl, rfl, rfl, rfl⟩

/-- Settles O46: a raise and a block write none of the inputs, and `CompletesFrom` keeps them. -/
theorem instructionsLeaveTheInputs : Obligations.InstructionsLeaveTheInputs := by
  unfold Obligations.InstructionsLeaveTheInputs
  intro i s t h
  obtain ⟨f, rfl⟩ | rfl | ⟨u, rfl, hu⟩ := exec_cases h
  · exact ⟨rfl, rfl, rfl, rfl, rfl⟩
  · exact ⟨rfl, rfl, rfl, rfl, rfl⟩
  · exact ⟨hu.keys, hu.rnd, hu.script, hu.draws, hu.reply⟩

end Sys2Proof.Machine

/-! The host's `clear_redraw()`, `read_pixel(x, y)` and `reset()`, the state after reset, and STATUS
(10_state.md R28, R33, R36). -/

namespace Sys2Proof.Machine

/-- Settles O49: each call, taken off the list, writes the one field the statement names. -/
theorem clearRedrawAndReadPixel : Obligations.ClearRedrawAndReadPixel := by
  unfold Obligations.ClearRedrawAndReadPixel
  intro s rest
  refine ⟨fun h => ?_, fun x y h => ?_⟩
  · rw [step_listed h]
    rfl
  · rw [step_listed h]
    rfl

/-- Right after reset memory lists nothing, so every byte reads as its reset contents. -/
theorem State.readByte_resetWith (p : Params) (a : Nat) : (State.resetWith p).readByte a = resetByte p.fontData a := rfl

theorem State.readByte_resetCall (s : State) (a : Nat) : s.resetCall.readByte a = resetByte s.params.fontData a := rfl

theorem resetByte_of_le (font : FontData) {a : Nat} (h : 0x050 ≤ a) : resetByte font a = 0 :=
  dif_neg (Nat.not_lt.2 h)

/-- Settles O50: the state is `State.resetCall`; its arrays hold zeros, its memory the reset contents. -/
theorem resetPutsTheResetTable : Obligations.ResetPutsTheResetTable := by
  unfold Obligations.ResetPutsTheResetTable
  intro s rest h
  refine ⟨State.resetCall { s with script := rest }, by rw [step_listed h]; rfl, ?_⟩
  refine ⟨fun k => Vector.getElem_replicate _, rfl, rfl, rfl, fun k => Vector.getElem_replicate _, rfl, rfl,
    Frame.pixel_clear, rfl, fun a => ?_, fun a ha => ?_, rfl, rfl, rfl, rfl⟩
  · rw [State.readByte_resetCall, resetByte_font]
  · rw [State.readByte_resetCall, resetByte_of_le _ ha]

/-- Settles O55: the empty memory list is canonical and reads as the font, and no fault is on record. -/
theorem resetMeetsTheInvariants : Obligations.ResetMeetsTheInvariants := by
  unfold Obligations.ResetMeetsTheInvariants
  intro p
  refine ⟨State.reset_canonical p, fun a => ?_, State.resetWith_statusConsistent p, rfl⟩
  rw [State.readByte_resetWith, resetByte_font]
  rfl

/-- MODE's bit of STATUS (10_state.md R31). -/
theorem Mode.bit_eq_true {m : Mode} : m.bit = true ↔ m = .blockedOnKey := by cases m <;> simp [Mode.bit]

/-- STATUS is FAULT with four bits put below it, one by one. -/
theorem State.statusByte_eq_concat (s : State) :
    s.statusByte = (((s.fault.concat false).concat s.halted).concat s.mode.bit).concat s.redraw := rfl

/-- Settles O51: each bit of `State.statusByte_eq_concat` read by its place. -/
theorem statusByteLayout : Obligations.StatusByteLayout := by
  unfold Obligations.StatusByteLayout
  refine ⟨fun s => ?_, by decide⟩
  rw [State.statusByte_eq_concat]
  refine ⟨BitVec.getLsbD_concat_zero, ?_, ?_, ?_, ?_⟩
  · rw [BitVec.getLsbD_concat_succ, BitVec.getLsbD_concat_zero, Mode.bit_eq_true]
  · rw [BitVec.getLsbD_concat_succ, BitVec.getLsbD_concat_succ, BitVec.getLsbD_concat_zero]
  · rw [BitVec.getLsbD_concat_succ, BitVec.getLsbD_concat_succ, BitVec.getLsbD_concat_succ, BitVec.getLsbD_concat_zero]
  · apply BitVec.eq_of_getLsbD_eq
    intro j hj
    rw [BitVec.getLsbD_extractLsb', Nat.add_comm 4 j, BitVec.getLsbD_concat_succ, BitVec.getLsbD_concat_succ,
      BitVec.getLsbD_concat_succ, BitVec.getLsbD_concat_succ, decide_eq_true hj, Bool.true_and]

end Sys2Proof.Machine

/-! What a step does to memory (20_memory.md R46-R48): no call but `reset` does more than store one block above the
font and inside 0x000-0xFFF, so the canonical form and the font outlive every step, and with the status they hold of
every reachable state. -/

namespace Sys2Proof.Machine

/-- `t` has `s`'s configuration and its memory after one block, empty where nothing is stored, is written above the
font and inside memory. -/
structure StoresOneBlock (s t : State) : Prop where
  params : t.params = s.params
  mem : ∃ (a : Nat) (bs : List Byte), 0x04F < a ∧ a + bs.length ≤ memSize ∧ t.mem = (s.storeBytes a bs).mem

variable {s t : State}

theorem StoresOneBlock.ofMemSame (hp : t.params = s.params) (hm : t.mem = s.mem) : StoresOneBlock s t :=
  ⟨hp, 0x050, [], by decide, by decide, hm⟩

theorem CompletesFrom.storesOneBlock (h : CompletesFrom s t) : StoresOneBlock s t := by
  obtain hm | ⟨bs, hfont, hend, hm⟩ := h.mem
  · exact .ofMemSame h.params hm
  · exact ⟨h.params, s.indexAddr, bs, hfont, hend, hm⟩

theorem State.stepCall_storesOneBlock (h : s.stepCall = .next t) : StoresOneBlock s t := by
  rcases State.stepCall_outcome h with ⟨-, rfl⟩ | ⟨-, ⟨f, rfl⟩ | rfl | ⟨u, rfl, hu⟩⟩
  · exact .ofMemSame rfl rfl
  · exact .ofMemSame rfl rfl
  · exact .ofMemSame rfl rfl
  · have hb := hu.storesOneBlock
    exact ⟨hb.params, hb.mem⟩

/-- A ROM is stored at 0x200, and its greatest length 0xE00 ends it at the end of memory. -/
theorem State.loadProgram_storesOneBlock (s : State) (rom : List Byte) : StoresOneBlock s (s.loadProgram rom) := by
  unfold State.loadProgram
  split
  · exact .ofMemSame rfl rfl
  · next hlen =>
    refine ⟨rfl, progBase, rom, by decide, ?_, rfl⟩
    simp only [romMax, progBase, memSize] at hlen ⊢
    omega

/-- What a step can do to memory: a `reset` starts it afresh, any other call stores at most one block. -/
theorem step_reset_or_storesOneBlock (h : step s = .next t) :
    (s.nextCall = .reset ∧ t = s.takeCall.resetCall) ∨ StoresOneBlock s t := by
  rcases step_cases h with
    ⟨keys, rnd, -, hstep⟩ | hreset | ⟨rom, -, rfl⟩ | ⟨-, rfl⟩ | ⟨-, rfl⟩ | ⟨x, y, -, rfl⟩
  · have hb := State.stepCall_storesOneBlock hstep
    exact .inr ⟨hb.params, hb.mem⟩
  · exact .inl hreset
  · have hb := State.loadProgram_storesOneBlock s.takeCall rom
    exact .inr ⟨hb.params, hb.mem⟩
  all_goals exact .inr (.ofMemSame rfl rfl)

theorem StoresOneBlock.canonical (h : StoresOneBlock s t) (hs : s.MemoryCanonical) : t.MemoryCanonical := by
  obtain ⟨hp, a, bs, -, hend, hm⟩ := h
  have hstore := State.storeBytes_canonical hs hend
  unfold State.MemoryCanonical at hstore ⊢
  rwa [hm, hp]

/-- The block lies above the font, so no font byte is in it. -/
theorem StoresOneBlock.readByte_font (h : StoresOneBlock s t) (a : Fin 80) : t.readByte a = s.readByte a := by
  obtain ⟨hp, base, bs, hfont, -, hm⟩ := h
  calc t.readByte a
      = (s.storeBytes base bs).readByte a := State.readByte_of_mem_eq _ t hm hp a
    _ = s.readByte a := State.readByte_storeBytes_outside s (.inl (by omega))

theorem StoresOneBlock.fontIntact (h : StoresOneBlock s t) (hs : s.FontIntact) : t.FontIntact := by
  intro a
  rw [h.readByte_font a, hs a, h.params]

theorem State.resetCall_fontIntact (s : State) : s.resetCall.FontIntact := by
  obtain ⟨-, hfont, -⟩ := resetMeetsTheInvariants s.params
  exact hfont

/-- Settles O52: storing one block inside memory keeps the canonical form, and a reset memory lists nothing. -/
theorem stepKeepsMemoryCanonical : Obligations.StepKeepsMemoryCanonical := by
  unfold Obligations.StepKeepsMemoryCanonical
  intro s t hs h
  obtain ⟨-, rfl⟩ | hb := step_reset_or_storesOneBlock h
  · exact State.reset_canonical s.params
  · exact hb.canonical hs

/-- Settles O53: a call that is no `reset` stores one block above the font, and a `reset` puts the font back. -/
theorem fontIsNeverOverwritten : Obligations.FontIsNeverOverwritten := by
  unfold Obligations.FontIsNeverOverwritten
  intro s t h
  obtain ⟨hreset, rfl⟩ | hb := step_reset_or_storesOneBlock h
  · exact ⟨fun hr => absurd hreset hr, fun _ => State.resetCall_fontIntact _⟩
  · exact ⟨fun _ => hb.readByte_font, hb.fontIntact⟩

/-- Settles O56, by induction on the run: the state after reset meets the three invariants, whatever calls are
listed, and every step keeps each. -/
theorem reachableStatesMeetTheInvariants : Obligations.ReachableStatesMeetTheInvariants := by
  unfold Obligations.ReachableStatesMeetTheInvariants
  intro s hr
  induction hr with
  | boot p script =>
    obtain ⟨hmem, hfont, hstatus, -⟩ := resetMeetsTheInvariants p
    exact ⟨hmem, hfont, hstatus.congr rfl rfl⟩
  | step hr h ih =>
    obtain ⟨hmem, hfont, hstatus⟩ := ih
    exact ⟨stepKeepsMemoryCanonical _ _ hmem h, (fontIsNeverOverwritten _ _ h).2 hfont,
      stepKeepsStatusConsistent _ _ hstatus h⟩

end Sys2Proof.Machine

/-! Memory as an instruction leaves it and as a fetch reads it (20_memory.md R38, R41, R53; 42_index_memory.md R124,
R130, R131). -/

namespace Sys2Proof.Machine

/-- Settles O5: the fetched word is the two bytes put together, and their number is `toNat_wordOfBytes`. -/
theorem fetchIsBigEndian : Obligations.FetchIsBigEndian := by
  unfold Obligations.FetchIsBigEndian
  intro s
  exact ⟨fun hle => ⟨_, State.fetchWord_of_le hle, toNat_wordOfBytes _ _⟩, State.fetchWord_of_gt⟩

/-- Settles O43: two ends store, FX33's three bytes at I and FX55's X + 1 bytes at I; every other end keeps memory. -/
theorem onlyStoredBytesChange : Obligations.OnlyStoredBytesChange := by
  unfold Obligations.OnlyStoredBytesChange
  rintro i s t h a ⟨hdigits, hregs⟩
  cases exec_end h with
  | storeDigits x hi =>
    have hout := hdigits x hi
    exact State.readByte_storeBytes_outside s (by rw [bcdDigits_length]; omega)
  | storeRegs x hi =>
    have hout := hregs x hi
    exact State.readByte_storeBytes_outside s (by rw [State.firstV_length]; omega)
  | _ => exact State.readByte_of_mem_eq s _ rfl rfl a

/-- FX33 whose checks pass stores the digits at I. -/
theorem exec_ldB_stores (x : Reg) {s : State} (hfont : 0x04F < s.indexAddr) (hend : s.indexAddr + 3 ≤ 0x1000) :
    exec (.ldB x) s = .next (s.storeBytes s.indexAddr (bcdDigits (s.getV x))).done := by
  simp only [exec, execLdB, (checks_eq_none (Nat.succ_pos 2)).2 ⟨hfont, hend⟩]

/-- FX55 whose checks pass stores V0..VX at I. -/
theorem exec_ldMemVx_stores (x : Reg) {s : State} (hfont : 0x04F < s.indexAddr)
    (hend : s.indexAddr + (x.val + 1) ≤ 0x1000) :
    exec (.ldMemVx x) s = .next (s.storeBytes s.indexAddr (s.firstV x)).done := by
  simp only [exec, execLdMemVx, (checks_eq_none (Nat.succ_pos x.val)).2 ⟨hfont, hend⟩]

/-- The spec's decision D20 (20_memory.md R53): a fetch reads memory directly, so it sees a block stored at I. -/
theorem fetchSeesStored_storeBytes {s : State} (hs : s.MemoryCanonical) {bs : List Byte}
    (hend : s.indexAddr + bs.length ≤ memSize) : FetchSeesStored s (s.storeBytes s.indexAddr bs).done bs := by
  intro u hm hp hpc
  have hbyte (a : Nat) : u.readByte a = byteAfter s s.i.toNat bs a :=
    calc u.readByte a
        = (s.storeBytes s.indexAddr bs).readByte a := State.readByte_of_mem_eq _ u hm hp a
      _ = byteAfter s s.i.toNat bs a := State.readByte_storeBytes hs hend a
  rw [State.fetchWord_of_le hpc, State.wordAt, hbyte, hbyte]

/-- Settles O31: under their checks FX33 and FX55 store one block at I, and every later fetch reads it. -/
theorem storedWordIsFetched : Obligations.StoredWordIsFetched := by
  unfold Obligations.StoredWordIsFetched
  intro x s hs hfont
  refine ⟨fun hend => ?_, fun hend => ?_⟩
  · have hend' : s.indexAddr + 3 ≤ 0x1000 := Nat.succ_le_succ hend
    exact ⟨_, exec_ldB_stores x hfont hend', fetchSeesStored_storeBytes hs hend'⟩
  · have hend' : s.indexAddr + (x.val + 1) ≤ 0x1000 := Nat.succ_le_succ hend
    have hlen : s.indexAddr + (s.firstV x).length ≤ memSize := by rw [State.firstV_length]; exact hend'
    exact ⟨_, exec_ldMemVx_stores x hfont hend', fetchSeesStored_storeBytes hs hlen⟩

end Sys2Proof.Machine

/-! Encoding (30_encoding.md R59-R66): the decoder reads an instruction back from its word, and the encoder writes
back the word an instruction was read from. -/

namespace Sys2Proof

/-! ## Decoding an encoded instruction -/

/-- The whole-word compare of the spec's decision D5 (R61): the other words of family 0 are SYS words. -/
theorem decodeWord_wordNNN_sys {nnn : Addr12} (hcls : wordNNN 0x0#4 nnn ≠ 0x00E0#16)
    (hret : wordNNN 0x0#4 nnn ≠ 0x00EE#16) : decodeWord (wordNNN 0x0#4 nnn) = .instr (.sys nnn) := by
  rw [decodeWord_family0 (fieldF_wordNNN _ _), decodeFamily0, if_neg hcls, if_neg hret, fieldNNN_wordNNN]

/-- N is not examined in family 5 (R62). -/
theorem decodeWord_wordXYN_seReg (x y : Reg) (n : Nibble) : decodeWord (wordXYN 0x5#4 x y n) = .instr (.seReg x y) := by
  rw [decodeWord_family5 (fieldF_wordXYN _ _ _ _), fieldX_wordXYN, fieldY_wordXYN]

/-- N is not examined in family 9 (R62). -/
theorem decodeWord_wordXYN_sneReg (x y : Reg) (n : Nibble) :
    decodeWord (wordXYN 0x9#4 x y n) = .instr (.sneReg x y) := by
  rw [decodeWord_family9 (fieldF_wordXYN _ _ _ _), fieldX_wordXYN, fieldY_wordXYN]

/-- By the instruction's family: the decoder finds the family's F in the word, then the selector the encoder wrote. -/
theorem decodeWord_encode (i : Instr) (hwf : i.wellFormed = true) : decodeWord (encode i) = .instr i := by
  cases i with
  | sys nnn => exact decodeWord_wordNNN_sys (sysWord_ne hwf).1 (sysWord_ne hwf).2
  | cls | ret => rfl
  | jp nnn => simp [encode, decodeWord_family1]
  | call nnn => simp [encode, decodeWord_family2]
  | seImm x nn => simp [encode, decodeWord_family3]
  | sneImm x nn => simp [encode, decodeWord_family4]
  | seReg x y => exact decodeWord_wordXYN_seReg x y 0x0#4
  | ldImm x nn => simp [encode, decodeWord_family6]
  | addImm x nn => simp [encode, decodeWord_family7]
  | ldReg x y | orReg x y | andReg x y | xorReg x y | addReg x y | subReg x y | shr x y | subnReg x y | shl x y =>
    simp [encode, decodeWord_family8, decodeFamily8]
  | sneReg x y => exact decodeWord_wordXYN_sneReg x y 0x0#4
  | ldI nnn => simp [encode, decodeWord_familyA]
  | jpV0 nnn => simp [encode, decodeWord_familyB]
  | rnd x nn => simp [encode, decodeWord_familyC]
  | drw x y n => simp [encode, decodeWord_familyD]
  | skp x | sknp x => simp [encode, decodeWord_familyE, decodeFamilyE]
  | ldVxDt x | ldVxK x | ldDtVx x | ldStVx x | addI x | ldF x | ldB x | ldMemVx x | ldVxMem x =>
    simp [encode, decodeWord_familyF, decodeFamilyF]

/-- Settles O1, by the instruction's family. -/
theorem decodeOfEncodeIsTheInstruction : Obligations.DecodeOfEncodeIsTheInstruction := by
  unfold Obligations.DecodeOfEncodeIsTheInstruction
  exact decodeWord_encode

/-! ## The patterns -/

/-- An address whose word is neither the CLS word nor the RET word is one SYS may have; the converse of
`sysWord_ne`. -/
theorem sysAddressOk_of_sysWord_ne {nnn : Addr12} (hcls : wordNNN 0x0#4 nnn ≠ 0x00E0#16)
    (hret : wordNNN 0x0#4 nnn ≠ 0x00EE#16) : sysAddressOk nnn = true := by
  have h : nnn ≠ 0x0E0#12 ∧ nnn ≠ 0x0EE#12 := ⟨fun e => hcls (e ▸ rfl), fun e => hret (e ▸ rfl)⟩
  simpa [sysAddressOk] using h

theorem decodeWord_wordXYN_unknown (x y : Reg) {n : Nibble}
    (hn : n ∈ [0x8#4, 0x9#4, 0xA#4, 0xB#4, 0xC#4, 0xD#4, 0xF#4]) :
    decodeWord (wordXYN 0x8#4 x y n) = .unknown (wordXYN 0x8#4 x y n) := by
  rw [decodeWord_family8 (fieldF_wordXYN _ _ _ _), decodeFamily8_unknown]
  rwa [fieldN_wordXYN]

theorem decodeWord_wordXNN_unknownE (x : Reg) {nn : Byte} (hnn : nn ∉ [0x9E#8, 0xA1#8]) :
    decodeWord (wordXNN 0xE#4 x nn) = .unknown (wordXNN 0xE#4 x nn) := by
  rw [decodeWord_familyE (fieldF_wordXNN _ _ _), decodeFamilyE_unknown]
  rwa [fieldNN_wordXNN]

theorem decodeWord_wordXNN_unknownF (x : Reg) {nn : Byte}
    (hnn : nn ∉ [0x07#8, 0x0A#8, 0x15#8, 0x18#8, 0x1E#8, 0x29#8, 0x33#8, 0x55#8, 0x65#8]) :
    decodeWord (wordXNN 0xF#4 x nn) = .unknown (wordXNN 0xF#4 x nn) := by
  rw [decodeWord_familyF (fieldF_wordXNN _ _ _), decodeFamilyF_unknown]
  rwa [fieldNN_wordXNN]

/-- Settles O3: a pattern that examines every fixed bit is the encoding of its instruction; left are families 5 and
9, which ignore N, and the unmapped selectors. -/
theorem decodeFollowsThePatterns : Obligations.DecodeFollowsThePatterns := by
  unfold Obligations.DecodeFollowsThePatterns
  intro x y n nn nnn
  exact
    ⟨decodeWord_encode .cls rfl, decodeWord_encode .ret rfl, decodeWord_wordNNN_sys,
      decodeWord_encode (.jp nnn) rfl, decodeWord_encode (.call nnn) rfl,
      decodeWord_encode (.seImm x nn) rfl, decodeWord_encode (.sneImm x nn) rfl,
      decodeWord_wordXYN_seReg x y n,
      decodeWord_encode (.ldImm x nn) rfl, decodeWord_encode (.addImm x nn) rfl,
      decodeWord_encode (.ldReg x y) rfl, decodeWord_encode (.orReg x y) rfl, decodeWord_encode (.andReg x y) rfl,
      decodeWord_encode (.xorReg x y) rfl, decodeWord_encode (.addReg x y) rfl, decodeWord_encode (.subReg x y) rfl,
      decodeWord_encode (.shr x y) rfl, decodeWord_encode (.subnReg x y) rfl, decodeWord_encode (.shl x y) rfl,
      decodeWord_wordXYN_unknown x y,
      decodeWord_wordXYN_sneReg x y n,
      decodeWord_encode (.ldI nnn) rfl, decodeWord_encode (.jpV0 nnn) rfl,
      decodeWord_encode (.rnd x nn) rfl, decodeWord_encode (.drw x y n) rfl,
      decodeWord_encode (.skp x) rfl, decodeWord_encode (.sknp x) rfl,
      decodeWord_wordXNN_unknownE x,
      decodeWord_encode (.ldVxDt x) rfl, decodeWord_encode (.ldVxK x) rfl, decodeWord_encode (.ldDtVx x) rfl,
      decodeWord_encode (.ldStVx x) rfl, decodeWord_encode (.addI x) rfl, decodeWord_encode (.ldF x) rfl,
      decodeWord_encode (.ldB x) rfl, decodeWord_encode (.ldMemVx x) rfl, decodeWord_encode (.ldVxMem x) rfl,
      decodeWord_wordXNN_unknownF x⟩

/-! ## Encoding a decoded word -/

section Recode
variable {w : Word} {i : Instr} {f : Nibble}

/-! A word of family `f` is `f` and its other fields. -/

theorem wordNNN_of_fieldF (hF : fieldF w = f) : wordNNN f (fieldNNN w) = w := hF ▸ wordNNN_fields w
theorem wordXNN_of_fieldF (hF : fieldF w = f) : wordXNN f (fieldX w) (fieldNN w) = w := hF ▸ wordXNN_fields w
theorem wordXYN_of_fieldF (hF : fieldF w = f) : wordXYN f (fieldX w) (fieldY w) (fieldN w) = w :=
  hF ▸ wordXYN_fields w

/-! The families with a selector: the selector found is the one the operation's encoding has. -/

theorem decodeFamily0_recode (hF : fieldF w = 0x0#4) (h : decodeFamily0 w = .instr i) :
    i.wellFormed = true ∧ encode i = w := by
  have hw := wordNNN_of_fieldF hF
  unfold decodeFamily0 at h
  split_ifs at h with hcls hret <;> cases h
  · exact ⟨rfl, hcls.symm⟩
  · exact ⟨rfl, hret.symm⟩
  · exact ⟨sysAddressOk_of_sysWord_ne (hw.symm ▸ hcls) (hw.symm ▸ hret), hw⟩

theorem decodeFamily8_recode (hF : fieldF w = 0x8#4) (h : decodeFamily8 w = .instr i) :
    i.wellFormed = true ∧ encode i = w := by
  unfold decodeFamily8 at h
  split at h <;> cases h
  all_goals next hN => exact ⟨rfl, (congrArg (wordXYN _ _ _) hN.symm).trans (wordXYN_of_fieldF hF)⟩

theorem decodeFamilyE_recode (hF : fieldF w = 0xE#4) (h : decodeFamilyE w = .instr i) :
    i.wellFormed = true ∧ encode i = w := by
  unfold decodeFamilyE at h
  split at h <;> cases h
  all_goals next hNN => exact ⟨rfl, (congrArg (wordXNN _ _) hNN.symm).trans (wordXNN_of_fieldF hF)⟩

theorem decodeFamilyF_recode (hF : fieldF w = 0xF#4) (h : decodeFamilyF w = .instr i) :
    i.wellFormed = true ∧ encode i = w := by
  unfold decodeFamilyF at h
  split at h <;> cases h
  all_goals next hNN => exact ⟨rfl, (congrArg (wordXNN _ _) hNN.symm).trans (wordXNN_of_fieldF hF)⟩

/-- The 16 families (R60). -/
theorem nibble_cases (f : Nibble) :
    f = 0x0#4 ∨ f = 0x1#4 ∨ f = 0x2#4 ∨ f = 0x3#4 ∨ f = 0x4#4 ∨ f = 0x5#4 ∨ f = 0x6#4 ∨ f = 0x7#4 ∨
    f = 0x8#4 ∨ f = 0x9#4 ∨ f = 0xA#4 ∨ f = 0xB#4 ∨ f = 0xC#4 ∨ f = 0xD#4 ∨ f = 0xE#4 ∨ f = 0xF#4 := by
  revert f; decide

/-- A family with one operation: the instruction read is that operation at the word's own fields. -/
theorem recode_of_decodeWord_eq {j : Instr} (hj : decodeWord w = .instr j) (h : decodeWord w = .instr i)
    (hwf : j.wellFormed = true) {v : Word} (henc : encode j = v) : i.wellFormed = true ∧ encode i = v := by
  cases hj.symm.trans h
  exact ⟨hwf, henc⟩

/-- Families 5 and 9: the N the decoder ignored is written 0 (R62). -/
theorem recode_of_ignoredN (hF : fieldF w = 0x5#4 ∨ fieldF w = 0x9#4) (h : decodeWord w = .instr i) :
    i.wellFormed = true ∧ encode i = wordXYN (fieldF w) (fieldX w) (fieldY w) 0x0#4 := by
  rcases hF with hF | hF <;> rw [hF]
  · exact recode_of_decodeWord_eq (decodeWord_family5 hF) h rfl rfl
  · exact recode_of_decodeWord_eq (decodeWord_family9 hF) h rfl rfl

/-- Every other family, one by one: the fields read and the selector put the word together again. -/
theorem recode_of_examinedN (hF : ¬(fieldF w = 0x5#4 ∨ fieldF w = 0x9#4)) (h : decodeWord w = .instr i) :
    i.wellFormed = true ∧ encode i = w := by
  obtain ⟨h5, h9⟩ := not_or.1 hF
  rcases nibble_cases (fieldF w) with
    hf | hf | hf | hf | hf | hf | hf | hf | hf | hf | hf | hf | hf | hf | hf | hf
  · exact decodeFamily0_recode hf (decodeWord_family0 hf ▸ h)
  · exact recode_of_decodeWord_eq (decodeWord_family1 hf) h rfl (wordNNN_of_fieldF hf)
  · exact recode_of_decodeWord_eq (decodeWord_family2 hf) h rfl (wordNNN_of_fieldF hf)
  · exact recode_of_decodeWord_eq (decodeWord_family3 hf) h rfl (wordXNN_of_fieldF hf)
  · exact recode_of_decodeWord_eq (decodeWord_family4 hf) h rfl (wordXNN_of_fieldF hf)
  · exact absurd hf h5
  · exact recode_of_decodeWord_eq (decodeWord_family6 hf) h rfl (wordXNN_of_fieldF hf)
  · exact recode_of_decodeWord_eq (decodeWord_family7 hf) h rfl (wordXNN_of_fieldF hf)
  · exact decodeFamily8_recode hf (decodeWord_family8 hf ▸ h)
  · exact absurd hf h9
  · exact recode_of_decodeWord_eq (decodeWord_familyA hf) h rfl (wordNNN_of_fieldF hf)
  · exact recode_of_decodeWord_eq (decodeWord_familyB hf) h rfl (wordNNN_of_fieldF hf)
  · exact recode_of_decodeWord_eq (decodeWord_familyC hf) h rfl (wordXNN_of_fieldF hf)
  · exact recode_of_decodeWord_eq (decodeWord_familyD hf) h rfl (wordXYN_of_fieldF hf)
  · exact decodeFamilyE_recode hf (decodeWord_familyE hf ▸ h)
  · exact decodeFamilyF_recode hf (decodeWord_familyF hf ▸ h)

end Recode

/-- Settles O2, by whether the word's family ignores N. -/
theorem encodeOfDecodedIsTheWord : Obligations.EncodeOfDecodedIsTheWord := by
  unfold Obligations.EncodeOfDecodedIsTheWord
  intro w i h
  split_ifs with hF
  · exact recode_of_ignoredN hF h
  · exact recode_of_examinedN hF h

/-! ## Sample words -/

/-- Settles O4: closed words, evaluated by the decoder. -/
theorem sampleWordsDecode : Obligations.SampleWordsDecode := by
  unfold Obligations.SampleWordsDecode
  decide

end Sys2Proof

/-! Control flow (40_control_flow.md R80-R91): each instruction's next state written out, and a RET at the stack its
CALL left. -/

namespace Sys2Proof.Machine

variable (s : State)

/-! ## The ends written out -/

/-- The one fault that is not fatal leaves HALTED (60_exceptions.md R176). -/
theorem State.raise_unknownOpcode (w : Word) :
    s.raise (.unknownOpcode w) =
      { s with fault := if s.fault = 0 then 1 else s.fault, lastStep := some (.fault (.unknownOpcode w)) } := by
  simp [State.raise, StepFault.fatal, StepFault.code]

theorem State.raise_of_fatal {f : StepFault} (hf : f.fatal = true) :
    s.raise f =
      { s with fault := if s.fault = 0 then f.code else s.fault, halted := true, lastStep := some (.fault f) } := by
  simp [State.raise, hf]

/-- `SkipIf` of a test that decides `p` (R79). -/
theorem State.completed_skipIf {c : Bool} {p : Prop} [Decidable p] (hc : c = true ↔ p) :
    (s.skipIf c).completed =
      { s with
        pc := if p then s.pc + 4 else s.pc + 2, mode := .running, kpPrev := s.keys, lastStep := some .ok } := by
  simp only [State.skipIf, State.completed, hc]

variable {s}

/-- A jump's target is NNN as a number (R83, R84). -/
theorem zext16OfAddr_eq (nnn : Addr12) : zext16OfAddr nnn = BitVec.ofNat 16 nnn.toNat :=
  (BitVec.ofNat_toNat 16 nnn).symm

/-! ## CALL and RET -/

/-- CALL with SP = k < 16 pushes its own address in slot k (R84). -/
theorem exec_call_of_castSucc (nnn : Addr12) {k : Fin 16} (hk : s.sp = k.castSucc) :
    exec (.call nnn) s = .next (State.completed { s with
      stack := s.stack.set k s.pc, sp := k.succ, pc := zext16OfAddr nnn }) := by
  have hlt : s.sp.val < 16 := by rw [hk]; exact k.isLt
  simp only [exec, execCall, dif_pos hlt]
  simp only [hk]
  rfl

theorem exec_call_of_full (nnn : Addr12) (hsp : s.sp = 16) :
    exec (.call nnn) s = .next (s.raise .stackOverflow) := by
  have hge : ¬ s.sp.val < 16 := by rw [hsp]; decide
  simp only [exec, execCall, dif_neg hge]

/-- RET with SP = k + 1 pops slot k (R82). -/
theorem exec_ret_of_succ {k : Fin 16} (hk : s.sp = k.succ) :
    exec .ret s = .next (State.completed { s with sp := k.castSucc, pc := s.stack[k] + 2 }) := by
  have hpos : 0 < s.sp.val := by rw [hk]; exact Nat.succ_pos k.val
  simp only [exec, execRet, dif_pos hpos]
  simp only [hk]
  rfl

theorem exec_ret_of_empty (hsp : s.sp = 0) : exec .ret s = .next (s.raise .stackUnderflow) := by
  have hle : ¬ 0 < s.sp.val := by rw [hsp]; decide
  simp only [exec, execRet, dif_neg hle]

/-- Settles O15: the CALL leaves its address in slot k and SP = k + 1, so the RET pops slot k and reads it back. -/
theorem retReturnsAfterItsCall : Obligations.RetReturnsAfterItsCall := by
  unfold Obligations.RetReturnsAfterItsCall
  intro nnn s u hfull
  obtain ⟨k, hk⟩ := Fin.exists_castSucc_eq.2 hfull
  refine ⟨_, exec_call_of_castSucc nnn hk.symm, fun hstack hsp => ⟨_, exec_ret_of_succ hsp, ?_, hk⟩⟩
  have hslot : u.stack[k] = s.pc := by
    rw [hstack]
    exact Vector.getElem_set_self k.isLt
  rw [State.completed_pc, hslot]

/-- Settles O12: the two cases of SP. -/
theorem retPopsOrUnderflows : Obligations.RetPopsOrUnderflows := by
  unfold Obligations.RetPopsOrUnderflows
  intro s
  refine ⟨decodeWord_encode .ret rfl, fun k hk => exec_ret_of_succ hk, fun hsp => ?_⟩
  rw [exec_ret_of_empty hsp, State.raise_of_fatal s rfl]
  rfl

/-- Settles O14: the two cases of SP. -/
theorem callPushesOrOverflows : Obligations.CallPushesOrOverflows := by
  unfold Obligations.CallPushesOrOverflows
  intro nnn s
  refine ⟨decodeWord_encode (.call nnn) rfl, fun k hk => ?_, fun hsp => ?_⟩
  · rw [exec_call_of_castSucc nnn hk, zext16OfAddr_eq]
    rfl
  · rw [exec_call_of_full nnn hsp, State.raise_of_fatal s rfl]
    rfl

/-! ## SYS and the jumps -/

/-- Settles O11: the two values of SYS_MODE. -/
theorem sysRaisesOrAdvances : Obligations.SysRaisesOrAdvances := by
  unfold Obligations.SysRaisesOrAdvances
  intro nnn s
  refine ⟨decodeWord_wordNNN_sys, fun hmode => ?_, fun hmode => ?_⟩
  · simp only [exec, execSys, hmode, State.raise_unknownOpcode]
  · simp only [exec, execSys, hmode]
    rfl

/-- The bound R91 gives for the target of JP V0, NNN. -/
theorem jpV0_sum_le (nnn : Addr12) (b : Byte) : nnn.toNat + b.toNat ≤ 0x10FE :=
  have hn : nnn.toNat ≤ 0xFFF := Nat.le_of_lt_succ nnn.isLt
  have hb : b.toNat ≤ 0xFF := Nat.le_of_lt_succ b.isLt
  Nat.add_le_add hn hb

/-- The target of JP V0, NNN is the sum of the two as numbers. -/
theorem zext16_add (nnn : Addr12) (b : Byte) :
    zext16OfAddr nnn + zext16OfByte b = BitVec.ofNat 16 (nnn.toNat + b.toNat) := by
  rw [BitVec.ofNat_add, ← zext16OfAddr_eq, BitVec.ofNat_toNat]

/-- Settles O13: both instructions end in a jump, BNNN's to the sum by `zext16_add`. -/
theorem jumpsSetPc : Obligations.JumpsSetPc := by
  unfold Obligations.JumpsSetPc
  intro nnn s
  refine ⟨decodeWord_encode (.jp nnn) rfl, ?_, decodeWord_encode (.jpV0 nnn) rfl, jpV0_sum_le nnn _, ?_⟩
  · rw [← zext16OfAddr_eq]
    rfl
  · rw [← zext16_add]
    rfl

/-! ## The skips -/

/-- Settles O16: each skips by `SkipIf` of its own test. -/
theorem immediateSkips : Obligations.ImmediateSkips := by
  unfold Obligations.ImmediateSkips
  intro x nn s
  exact ⟨decodeWord_encode (.seImm x nn) rfl, congrArg Host.Outcome.next (s.completed_skipIf beq_iff_eq),
    decodeWord_encode (.sneImm x nn) rfl, congrArg Host.Outcome.next (s.completed_skipIf bne_iff_ne)⟩

/-- Settles O17: each skips by `SkipIf` of its own test, and the decoder ignores N. -/
theorem registerSkips : Obligations.RegisterSkips := by
  unfold Obligations.RegisterSkips
  intro x y n s
  exact ⟨decodeWord_wordXYN_seReg x y n, congrArg Host.Outcome.next (s.completed_skipIf beq_iff_eq),
    decodeWord_wordXYN_sneReg x y n, congrArg Host.Outcome.next (s.completed_skipIf bne_iff_ne)⟩

end Sys2Proof.Machine

/-! The ALU (41_alu.md R99-R111): each operation's byte as the number the spec writes, and the state each operation
that writes registers only leaves. -/

namespace Sys2Proof.Machine

/-! ## Bytes as numbers -/

theorem byte_add_eq (a b : Byte) : a + b = BitVec.ofNat 8 ((a.toNat + b.toNat) % 256) := by
  apply BitVec.eq_of_toNat_eq
  simp only [BitVec.toNat_add, BitVec.toNat_ofNat]
  omega

/-- The spec's `(a - b) mod 256`, with 256 added first so that the difference of naturals does not stop at 0 (R107,
R109). -/
theorem byte_sub_eq (a b : Byte) : a - b = BitVec.ofNat 8 ((a.toNat + 256 - b.toNat) % 256) := by
  apply BitVec.eq_of_toNat_eq
  simp only [BitVec.toNat_sub, BitVec.toNat_ofNat]
  omega

theorem byte_ushiftRight_one_eq (a : Byte) : a >>> 1 = BitVec.ofNat 8 (a.toNat / 2) := by
  apply BitVec.eq_of_toNat_eq
  simp only [BitVec.toNat_ushiftRight, BitVec.toNat_ofNat, Nat.shiftRight_eq_div_pow]
  omega

theorem byte_shiftLeft_one_eq (a : Byte) : a <<< 1 = BitVec.ofNat 8 (a.toNat * 2 % 256) := by
  apply BitVec.eq_of_toNat_eq
  simp only [BitVec.toNat_shiftLeft, BitVec.toNat_ofNat, Nat.shiftLeft_eq]
  omega

/-! ## The states the writes leave -/

variable (s : State)

/-- The end of an instruction whose own effect is the write of one register. -/
theorem State.done_setV (x : Reg) (b : Byte) :
    (s.setV x b).done =
      { s with v := s.v.set x b, pc := s.pc + 2, mode := .running, kpPrev := s.keys, lastStep := some .ok } := rfl

/-- By the two values of ALU_FLAG_ORDER (R99). -/
theorem State.writeAlu_eq (x : Reg) (result flag : Byte) :
    s.writeAlu x result flag = { s with v := aluFile s x result flag } := by
  unfold State.writeAlu aluFile
  cases s.params.aluFlagOrder with
  | flagLast => rfl
  | resultLast => rfl

theorem State.done_writeAlu (x : Reg) (result flag : Byte) :
    (s.writeAlu x result flag).done =
      { s with
        v := aluFile s x result flag
        pc := s.pc + 2, mode := .running, kpPrev := s.keys, lastStep := some .ok } := by
  rw [State.writeAlu_eq]
  rfl

/-- By the two values of SHIFT_VF_ORDER (R99), for a shift and a dropped bit given as numbers. -/
theorem State.writeShift_eq (x : Reg) {g d : Byte → Byte} {shift dropped : Nat → Nat}
    (hg : ∀ a, g a = BitVec.ofNat 8 (shift a.toNat)) (hd : ∀ a, d a = BitVec.ofNat 8 (dropped a.toNat)) :
    s.writeShift x g d = { s with v := shiftFile s x shift dropped } := by
  unfold State.writeShift shiftFile
  simp only [hg, hd]
  cases s.params.shiftVfOrder with
  | flagFirst => rfl
  | flagLast => rfl

theorem State.done_writeShift (x : Reg) {g d : Byte → Byte} {shift dropped : Nat → Nat}
    (hg : ∀ a, g a = BitVec.ofNat 8 (shift a.toNat)) (hd : ∀ a, d a = BitVec.ofNat 8 (dropped a.toNat)) :
    (s.writeShift x g d).done =
      { s with
        v := shiftFile s x shift dropped
        pc := s.pc + 2, mode := .running, kpPrev := s.keys, lastStep := some .ok } := by
  rw [State.writeShift_eq s x hg hd]
  rfl

/-! ## Operations that write VX only -/

/-- Settles O18: each writes VX alone, and the sum of the bytes is the sum mod 256 by `byte_add_eq`. -/
theorem immediateLoadAndAdd : Obligations.ImmediateLoadAndAdd := by
  unfold Obligations.ImmediateLoadAndAdd
  intro x nn s
  refine ⟨decodeWord_encode (.ldImm x nn) rfl, congrArg Host.Outcome.next (s.done_setV x nn),
    decodeWord_encode (.addImm x nn) rfl, ?_⟩
  rw [← byte_add_eq]
  exact congrArg Host.Outcome.next (s.done_setV x _)

/-- Settles O19: the one write is VY's value to VX. -/
theorem copyRegister : Obligations.CopyRegister := by
  unfold Obligations.CopyRegister
  intro x y s
  exact ⟨decodeWord_encode (.ldReg x y) rfl, congrArg Host.Outcome.next (s.done_setV x _)⟩

/-- Settles O20: each writes VX alone. -/
theorem logicWritesNoFlag : Obligations.LogicWritesNoFlag := by
  unfold Obligations.LogicWritesNoFlag
  intro x y s
  exact ⟨decodeWord_encode (.orReg x y) rfl, congrArg Host.Outcome.next (s.done_setV x _),
    decodeWord_encode (.andReg x y) rfl, congrArg Host.Outcome.next (s.done_setV x _),
    decodeWord_encode (.xorReg x y) rfl, congrArg Host.Outcome.next (s.done_setV x _)⟩

/-- Settles O24: the one write is the masked random byte, whatever byte the state holds. -/
theorem rndMasksTheRandomByte : Obligations.RndMasksTheRandomByte := by
  unfold Obligations.RndMasksTheRandomByte
  intro x nn s
  exact ⟨decodeWord_encode (.rnd x nn) rfl, congrArg Host.Outcome.next (s.done_setV x _)⟩

/-! ## Operations that write VX and the flag -/

/-- Settles O21: the written result and flag are the sum mod 256 and the carry of the exact sum. -/
theorem addRegWritesSumAndCarry : Obligations.AddRegWritesSumAndCarry := by
  unfold Obligations.AddRegWritesSumAndCarry
  intro x y s
  refine ⟨decodeWord_encode (.addReg x y) rfl, ?_⟩
  rw [← byte_add_eq, ← carryFlag_eq]
  exact congrArg Host.Outcome.next (s.done_writeAlu x _ _)

/-- Settles O22: each writes its difference mod 256 and its no-borrow flag; SUBN is SUB with the operands exchanged. -/
theorem subtractionsWriteDifferenceAndNoBorrow : Obligations.SubtractionsWriteDifferenceAndNoBorrow := by
  unfold Obligations.SubtractionsWriteDifferenceAndNoBorrow
  intro x y s
  simp only [← byte_sub_eq, ← noBorrowFlag_eq]
  exact ⟨decodeWord_encode (.subReg x y) rfl, congrArg Host.Outcome.next (s.done_writeAlu x _ _),
    decodeWord_encode (.subnReg x y) rfl, congrArg Host.Outcome.next (s.done_writeAlu x _ _)⟩

/-- Settles O23: each shift and its dropped bit are the halving or the doubling and the remainder or the quotient the
spec writes; Y is encoded and never read. -/
theorem shiftsByOneDropABitToVF : Obligations.ShiftsByOneDropABitToVF := by
  unfold Obligations.ShiftsByOneDropABitToVF
  intro x y s
  exact ⟨decodeWord_encode (.shr x y) rfl,
    congrArg Host.Outcome.next (s.done_writeShift x byte_ushiftRight_one_eq lowBitFlag_eq),
    decodeWord_encode (.shl x y) rfl,
    congrArg Host.Outcome.next (s.done_writeShift x byte_shiftLeft_one_eq highBitFlag_eq)⟩

end Sys2Proof.Machine

/-! The index register and the memory transfers (42_index_memory.md R124-R133): the number each write of I holds, and
each transfer's two ends, the raise of a failed check and the block moved at I. -/

namespace Sys2Proof.Machine

/-! ## Writes of I -/

/-- FX29's product does not wrap: VX is not masked (R127). -/
theorem zext16_mul_five (b : Byte) : zext16OfByte b * 5 = BitVec.ofNat 16 (b.toNat * 5) := by
  rw [BitVec.ofNat_mul, BitVec.ofNat_toNat]
  rfl

/-- FX1E's sum wraps at 2^16 (R126). -/
theorem word_add_zext16 (i : Word) (b : Byte) :
    i + zext16OfByte b = BitVec.ofNat 16 ((i.toNat + b.toNat) % 65536) := by
  apply BitVec.eq_of_toNat_eq
  simp only [BitVec.toNat_add, BitVec.toNat_setWidth, BitVec.toNat_ofNat]
  omega

/-- Settles O25: ANNN writes NNN as a number by `zext16OfAddr_eq`, FX29 the product by `zext16_mul_five`. -/
theorem indexIsSet : Obligations.IndexIsSet := by
  unfold Obligations.IndexIsSet
  intro nnn x s
  refine ⟨decodeWord_encode (.ldI nnn) rfl, ?_, decodeWord_encode (.ldF x) rfl, ?_⟩
  · rw [← zext16OfAddr_eq]
    rfl
  · rw [← zext16_mul_five]
    rfl

/-- Settles O26: the written I is the sum mod 2^16 by `word_add_zext16`, the flag that of the unbounded sum. -/
theorem addIFlagsAboveFFF : Obligations.AddIFlagsAboveFFF := by
  unfold Obligations.AddIFlagsAboveFFF
  intro x s
  refine ⟨decodeWord_encode (.addI x) rfl, ?_⟩
  rw [← word_add_zext16, ← indexOverflowFlag_eq]
  rfl

/-! ## The failed checks -/

/-- The checks of FX33 and FX55 test the range first (20_memory.md R46). -/
theorem checks_eq_memoryOutOfRange {base count : Nat} (h : 0x1000 < base + count) (hc : 0 < count) :
    (checkRange base count).or (checkNoFont base count) = some (.memoryOutOfRange (max base 0x1000)) := by
  rw [checkRange_eq_some h hc, Option.some_or]

/-- A block of at most 16 bytes that begins in the font ends inside memory, so the font check decides (20_memory.md
R47). -/
theorem checks_eq_fontWrite {base count : Nat} (h : base ≤ 0x04F) (hc : 0 < count) (hcount : count ≤ 16) :
    (checkRange base count).or (checkNoFont base count) = some (.fontWrite base) := by
  have hrange : checkRange base count = none := checkRange_eq_none.2 (.inl (by omega))
  rw [hrange, Option.none_or, checkNoFont_eq_some h hc]

theorem State.raise_memoryOutOfRange (s : State) (a : Nat) :
    s.raise (.memoryOutOfRange a) =
      { s with
        fault := if s.fault = 0 then 5 else s.fault, halted := true
        lastStep := some (.fault (.memoryOutOfRange a)) } :=
  s.raise_of_fatal rfl

theorem State.raise_fontWrite (s : State) (a : Nat) :
    s.raise (.fontWrite a) =
      { s with
        fault := if s.fault = 0 then 6 else s.fault, halted := true, lastStep := some (.fault (.fontWrite a)) } :=
  s.raise_of_fatal rfl

section RaisingEnds
variable {s : State} (x : Reg) {f : StepFault}

theorem exec_ldB_raises
    (h : (checkRange s.indexAddr 3).or (checkNoFont s.indexAddr 3) = some f) :
    exec (.ldB x) s = .next (s.raise f) := by
  simp only [exec, execLdB, h]

theorem exec_ldMemVx_raises
    (h : (checkRange s.indexAddr (x.val + 1)).or (checkNoFont s.indexAddr (x.val + 1)) = some f) :
    exec (.ldMemVx x) s = .next (s.raise f) := by
  simp only [exec, execLdMemVx, h]

theorem exec_ldVxMem_raises (h : checkRange s.indexAddr (x.val + 1) = some f) :
    exec (.ldVxMem x) s = .next (s.raise f) := by
  simp only [exec, execLdVxMem, h]

end RaisingEnds

/-! ## FX33 -/

/-- The three digits of a byte are below 256, so their bytes hold them as they are (R130). -/
theorem bcdDigits_toNat (b : Byte) :
    (bcdDigits b)[0].toNat = b.toNat / 100 ∧ (bcdDigits b)[1].toNat = b.toNat / 10 % 10 ∧
      (bcdDigits b)[2].toNat = b.toNat % 10 := by
  have hb : b.toNat < 256 := b.isLt
  simp only [bcdDigits, List.getElem_cons_zero, List.getElem_cons_succ, BitVec.toNat_ofNat]
  omega

/-- Settles O27: the two failed checks raise, and FX33's digits are a block of three bytes at I. -/
theorem ldBStoresBcdDigits : Obligations.LdBStoresBcdDigits := by
  unfold Obligations.LdBStoresBcdDigits
  intro x s
  refine ⟨decodeWord_encode (.ldB x) rfl, fun hend => ?_, fun hfont => ?_, fun hfont hend => ?_⟩
  · rw [exec_ldB_raises x (checks_eq_memoryOutOfRange (Nat.succ_lt_succ hend) (by decide)), s.raise_memoryOutOfRange]
    rfl
  · rw [exec_ldB_raises x (checks_eq_fontWrite hfont (by decide) (by decide)), s.raise_fontWrite]
    rfl
  · have hend' : s.indexAddr + 3 ≤ 0x1000 := Nat.succ_le_succ hend
    refine ⟨_, exec_ldB_stores x hfont hend', rfl, fun a ha => ?_, fun hs => ?_⟩
    · exact State.readByte_storeBytes_outside s ha
    · have hread (k : Nat) (hk : k < 3) :
          (s.storeBytes s.indexAddr (bcdDigits s.v[x])).readByte (s.indexAddr + k) = (bcdDigits s.v[x])[k] :=
        State.readByte_storeBytes_inside hs (bs := bcdDigits s.v[x]) hend' k hk
      obtain ⟨hundreds, htens, hunits⟩ := bcdDigits_toNat s.v[x]
      exact ⟨(congrArg BitVec.toNat (hread 0 (by decide))).trans hundreds,
        (congrArg BitVec.toNat (hread 1 (by decide))).trans htens,
        (congrArg BitVec.toNat (hread 2 (by decide))).trans hunits⟩

/-! ## FX55 and FX65 -/

/-- A register FX55 stored is read back at its own offset from I (R131). -/
theorem State.readByte_storeBytes_firstV {s : State} (x : Reg) (hs : s.MemoryCanonical)
    (hend : s.indexAddr + (x.val + 1) ≤ 0x1000) {k : Reg} (hk : k ≤ x) :
    (s.storeBytes s.indexAddr (s.firstV x)).readByte (s.indexAddr + k) = s.v[k] := by
  have hlt : k.val < (s.firstV x).length := by
    rw [State.firstV_length]
    exact Nat.lt_succ_of_le hk
  have hlen : s.indexAddr + (s.firstV x).length ≤ memSize := by
    rw [State.firstV_length]
    exact hend
  rw [State.readByte_storeBytes_inside hs hlen k hlt, State.firstV_getElem]

/-- FX65 whose check passes loads V0..VX from I. -/
theorem exec_ldVxMem_loads {s : State} (x : Reg) (hend : s.indexAddr + (x.val + 1) ≤ 0x1000) :
    exec (.ldVxMem x) s = .next (s.loadV s.indexAddr x).done := by
  simp only [exec, execLdVxMem, checkRange_eq_none.2 (.inl hend)]

/-- Settles O28: the two failed checks raise, and V0..VX are a block of X + 1 bytes at I. -/
theorem ldMemVxStoresTheRegisters : Obligations.LdMemVxStoresTheRegisters := by
  unfold Obligations.LdMemVxStoresTheRegisters
  intro x s
  refine ⟨decodeWord_encode (.ldMemVx x) rfl, fun hend => ?_, fun hfont => ?_, fun hfont hend => ?_⟩
  · rw [exec_ldMemVx_raises x (checks_eq_memoryOutOfRange (Nat.succ_lt_succ hend) x.val.succ_pos),
      s.raise_memoryOutOfRange]
    rfl
  · rw [exec_ldMemVx_raises x (checks_eq_fontWrite hfont x.val.succ_pos x.isLt), s.raise_fontWrite]
    rfl
  · have hend' : s.indexAddr + (x.val + 1) ≤ 0x1000 := Nat.succ_le_succ hend
    refine ⟨_, exec_ldMemVx_stores x hfont hend', rfl, fun a ha => ?_,
      fun hs k hk => State.readByte_storeBytes_firstV x hs hend' hk⟩
    exact State.readByte_storeBytes_outside s (by rw [State.firstV_length]; exact ha)

/-- Settles O29: the failed check raises, and each loaded register is `State.loadV_getElem`. -/
theorem ldVxMemLoadsTheRegisters : Obligations.LdVxMemLoadsTheRegisters := by
  unfold Obligations.LdVxMemLoadsTheRegisters
  intro x s
  refine ⟨decodeWord_encode (.ldVxMem x) rfl, fun hend => ?_, fun hend => ?_⟩
  · rw [exec_ldVxMem_raises x (checkRange_eq_some (Nat.succ_lt_succ hend) x.val.succ_pos), s.raise_memoryOutOfRange]
    rfl
  · exact ⟨_, exec_ldVxMem_loads x (Nat.succ_le_succ hend), rfl, s.loadV_getElem s.indexAddr x⟩

/-- Settles O30: FX65 loads the bytes FX55 stored, whatever the register file it starts from; neither writes I. -/
theorem storeThenLoadRestoresTheRegisters : Obligations.StoreThenLoadRestoresTheRegisters := by
  unfold Obligations.StoreThenLoadRestoresTheRegisters
  intro x s w hs hfont hend
  have hend' : s.indexAddr + (x.val + 1) ≤ 0x1000 := Nat.succ_le_succ hend
  refine ⟨_, _, exec_ldMemVx_stores x hfont hend', exec_ldVxMem_loads x hend', rfl, rfl, fun k hk => ?_⟩
  rw [State.done_v, State.loadV_getElem, if_pos hk]
  exact State.readByte_storeBytes_firstV x hs hend' hk

end Sys2Proof.Machine

/-! The display (43_display.md R141-R143): `SpriteHits` names the listed pixels of `State.spritePixels`, and a list
without repetition is toggled once per draw. -/

namespace Sys2Proof.Machine

/-- Settles O32: the cleared frame has no pixel set. -/
theorem clsClearsTheScreen : Obligations.ClsClearsTheScreen := by
  unfold Obligations.ClsClearsTheScreen
  intro s
  exact ⟨decodeWord_encode .cls rfl, _, rfl, rfl, Frame.pixel_clear⟩

/-! ## What one draw does -/

/-- Every pixel after drawing a list without repetition. -/
theorem drawPixels_pixel {ps : List Pixel} (hn : ps.Nodup) (fb : Frame) (c : Bool) (px : Fin 64) (py : Fin 32) :
    (drawPixels ps fb c).1.pixel px py = if (px, py) ∈ ps then !fb.pixel px py else fb.pixel px py := by
  split
  · next hp => exact drawPixels_mem (p := (px, py)) ps fb c hn hp
  · next hp => exact drawPixels_not_mem (p := (px, py)) ps fb c hp

/-- The second draw of a list without repetition undoes the first, whatever the flags the draws start from. -/
theorem drawPixels_drawPixels {ps : List Pixel} (hn : ps.Nodup) (fb : Frame) (c c' : Bool) :
    (drawPixels ps (drawPixels ps fb c).1 c').1 = fb := by
  refine Frame.ext_pixel fun px py => ?_
  rw [drawPixels_pixel hn, drawPixels_pixel hn]
  by_cases hp : (px, py) ∈ ps
  · rw [if_pos hp, if_pos hp, Bool.not_not]
  · rw [if_neg hp, if_neg hp]

section Drw
variable (x y : Reg) (n : Nibble) (s : State)

/-- The pixels DRW VX, VY, N toggles from `s`. -/
def State.drwPixels : List Pixel := s.spritePixels s.v[x] s.v[y] n.toNat

theorem State.nodup_drwPixels : (s.drwPixels x y n).Nodup := nodup_spritePixels s _ _ n.isLt

/-- The listed pixels are those of R143's conditions. -/
theorem State.mem_drwPixels {px : Fin 64} {py : Fin 32} : (px, py) ∈ s.drwPixels x y n ↔ SpriteHits s x y n px py := by
  rw [State.drwPixels, mem_spritePixels]
  refine exists_congr fun r => exists_congr fun col => ?_
  rw [placePixel_eq_some]
  rfl

/-- The state DRW leaves: what drawing the listed pixels gives, in the framebuffer and in VF. -/
theorem exec_drw :
    exec (.drw x y n) s = .next { s with
      fb := (drawPixels (s.drwPixels x y n) s.fb false).1
      v := s.v.set 15 (byteOfBool (drawPixels (s.drwPixels x y n) s.fb false).2), redraw := true
      pc := s.pc + 2, mode := .running, kpPrev := s.keys, lastStep := some .ok } := rfl

/-- The collision flag of a draw says whether a pixel the sprite hits was set before it. -/
theorem drwCollision_iff :
    (drawPixels (s.drwPixels x y n) s.fb false).2 = true ↔
      ∃ px py, SpriteHits s x y n px py ∧ s.fb.pixel px py = true := by
  rw [drawPixels_collision _ _ _ (s.nodup_drwPixels x y n), Bool.false_or, List.any_eq_true, Prod.exists]
  exact exists_congr fun px => exists_congr fun py => and_congr_left' (s.mem_drwPixels x y n)

end Drw

/-! ## The statements about DRW -/

/-- Settles O33: a hit pixel is a listed one, no pixel is listed twice, and VF is the collision flag. -/
theorem drwTogglesTheSpritePixels : Obligations.DrwTogglesTheSpritePixels := by
  unfold Obligations.DrwTogglesTheSpritePixels
  intro x y n s
  have hnodup := s.nodup_drwPixels x y n
  refine ⟨decodeWord_encode (.drw x y n) rfl, _, _, exec_drw x y n s, rfl, fun px py hit => ?_, fun px py hmiss => ?_,
    fun hset => ?_, fun hclear => ?_⟩
  · rw [drawPixels_pixel hnodup, if_pos ((s.mem_drwPixels x y n).2 hit)]
  · rw [drawPixels_pixel hnodup, if_neg (mt (s.mem_drwPixels x y n).1 hmiss)]
  · exact if_pos ((drwCollision_iff x y n s).2 hset)
  · refine if_neg fun hc => ?_
    obtain ⟨px, py, hit, hset⟩ := (drwCollision_iff x y n s).1 hc
    exact absurd hset (Bool.eq_false_iff.1 (hclear px py hit))

/-- Settles O34: with VX and VY put back, the second DRW lists the pixels of the first, since DRW writes neither I,
memory nor the parameters. -/
theorem drawingTwiceRestoresTheScreen : Obligations.DrawingTwiceRestoresTheScreen := by
  unfold Obligations.DrawingTwiceRestoresTheScreen
  intro x y n s
  exact ⟨_, _, exec_drw x y n s, exec_drw x y n _, drawPixels_drawPixels (s.nodup_drwPixels x y n) s.fb false false⟩

end Sys2Proof.Machine

/-! The keypad and the timers (44_keypad_timers.md R154-R162): the key index check, `NewlyPressed` as membership in the
listed new presses, and what FX0A may pick from that list. -/

namespace Sys2Proof.Machine

/-! ## The key skips -/

theorem keyIndex_eq_none {b : Byte} (h : 0xF < b.toNat) : keyIndex b = none := dif_neg (Nat.not_lt.2 h)

theorem keyIndex_eq_some {b : Byte} (h : b.toNat ≤ 0xF) : keyIndex b = some ⟨b.toNat, Nat.lt_succ_of_le h⟩ :=
  dif_pos (Nat.lt_succ_of_le h)

theorem State.raise_keyIndexOutOfRange (s : State) (b : Byte) :
    s.raise (.keyIndexOutOfRange b) =
      { s with
        fault := if s.fault = 0 then 7 else s.fault, halted := true
        lastStep := some (.fault (.keyIndexOutOfRange b)) } :=
  s.raise_of_fatal rfl

section KeySkips
variable {s : State} {x : Reg}

/-- Both key skips check the index before they test the key (R154). -/
theorem exec_keySkip_raises {i : Instr} (hi : i = .skp x ∨ i = .sknp x) (h : keyIndex s.v[x] = none) :
    exec i s = .next (s.raise (.keyIndexOutOfRange s.v[x])) := by
  obtain rfl | rfl := hi
  · simp only [exec, execSkp, State.getV, h]
  · simp only [exec, execSknp, State.getV, h]

theorem exec_skp_skips {k : Key} (h : keyIndex s.v[x] = some k) :
    exec (.skp x) s = .next (s.skipIf (s.keyHeld k)).completed := by
  simp only [exec, execSkp, State.getV, h]

theorem exec_sknp_skips {k : Key} (h : keyIndex s.v[x] = some k) :
    exec (.sknp x) s = .next (s.skipIf (!s.keyHeld k)).completed := by
  simp only [exec, execSknp, State.getV, h]

end KeySkips

/-- Settles O35: the index check fails or names a key, and each skips by `SkipIf` of its own test of that key. -/
theorem keySkips : Obligations.KeySkips := by
  unfold Obligations.KeySkips
  intro x s
  refine ⟨decodeWord_encode (.skp x) rfl, decodeWord_encode (.sknp x) rfl, fun hbig i hi => ?_, fun hkey => ⟨?_, ?_⟩⟩
  · rw [← s.raise_keyIndexOutOfRange]
    exact exec_keySkip_raises hi (keyIndex_eq_none hbig)
  · exact (exec_skp_skips (keyIndex_eq_some hkey)).trans (congrArg _ (s.completed_skipIf Iff.rfl))
  · exact (exec_sknp_skips (keyIndex_eq_some hkey)).trans
      (congrArg _ (s.completed_skipIf (Bool.not_eq_true' _).to_iff))

/-! ## The timers -/

theorem State.soundOutput_iff (s : State) : s.soundOutput = true ↔ s.st ≠ 0 := bne_iff_ne

/-- Settles O36: each instruction moves one byte and completes. -/
theorem timerTransfers : Obligations.TimerTransfers := by
  unfold Obligations.TimerTransfers
  intro x s
  exact ⟨decodeWord_encode (.ldVxDt x) rfl, rfl, decodeWord_encode (.ldDtVx x) rfl, rfl,
    decodeWord_encode (.ldStVx x) rfl, _, rfl, rfl, State.soundOutput_iff _⟩

/-! ## The key wait -/

/-- The listed new presses are the keys R161 names. -/
theorem State.mem_newPresses {s : State} {k : Key} : k ∈ s.newPresses ↔ NewlyPressed s k := by
  rw [State.newPresses, List.mem_filter, and_iff_right (List.mem_finRange k), NewlyPressed]
  cases s.params.keywaitMode with
  | edge => simp [State.keyHeld]
  | level => simp [State.keyHeld]

/-- The new presses are listed by ascending index (R161). -/
theorem State.newPresses_ascending (s : State) : s.newPresses.Pairwise (· < ·) :=
  (List.pairwise_lt_finRange 16).filter _

theorem pickKey_eq_none {pick : KeywaitPick} {draw : Nat} {ks : List Key} :
    pickKey pick draw ks = none ↔ ks = [] := by
  cases ks with
  | nil => exact iff_of_true rfl rfl
  | cons k ks =>
    cases pick with
    | lowest => simp [pickKey]
    | drawn => simpa [pickKey] using Nat.le_of_lt_succ (Nat.mod_lt draw ks.length.succ_pos)

/-- Only a listed key is picked, under either KEYWAIT_PICK and whatever the draw (R162). -/
theorem mem_of_pickKey {pick : KeywaitPick} {draw : Nat} {ks : List Key} {k : Key}
    (h : pickKey pick draw ks = some k) : k ∈ ks := by
  cases ks with
  | nil => cases h
  | cons k' ks =>
    cases pick with
    | lowest =>
      cases h
      exact List.mem_cons_self
    | drawn => exact List.mem_of_getElem? h

/-- Under KEYWAIT_PICK = lowest the first listed key is picked, the least of an ascending list (R162). -/
theorem le_of_pickKey_lowest {draw : Nat} {ks : List Key} {k j : Key} (hks : ks.Pairwise (· < ·))
    (h : pickKey .lowest draw ks = some k) (hj : j ∈ ks) : k ≤ j := by
  cases ks with
  | nil => cases h
  | cons k' ks =>
    cases h
    obtain rfl | hj := List.mem_cons.1 hj
    · exact le_rfl
    · exact (List.rel_of_pairwise_cons hks hj).le

section KeyWait
variable {s : State} (x : Reg)

theorem exec_ldVxK_blocks (h : s.newPresses = []) : exec (.ldVxK x) s = .next s.blocked := by
  simp only [exec, execLdVxK, pickKey_eq_none.2 h]

theorem exec_ldVxK_takes {k : Key} (h : pickKey s.params.keywaitPick (Config.freePick s.draws) s.newPresses = some k) :
    exec (.ldVxK x) s = .next (s.setV x (BitVec.ofNat 8 k)).done := by
  simp only [exec, execLdVxK, h]

end KeyWait

/-- Settles O37: without a new press the list is empty; otherwise a key is picked, a listed one, and under lowest the
first of the ascending list. -/
theorem keyWaitBlocksOrTakesANewPress : Obligations.KeyWaitBlocksOrTakesANewPress := by
  unfold Obligations.KeyWaitBlocksOrTakesANewPress
  intro x s
  refine ⟨decodeWord_encode (.ldVxK x) rfl, fun hnone => ?_, fun ⟨j, hj⟩ => ?_⟩
  · exact exec_ldVxK_blocks x (List.eq_nil_iff_forall_not_mem.2 fun k hk => hnone k (State.mem_newPresses.1 hk))
  · have hne : s.newPresses ≠ [] := List.ne_nil_of_mem (State.mem_newPresses.2 hj)
    obtain ⟨k, hk⟩ := Option.ne_none_iff_exists'.1 (mt pickKey_eq_none.1 hne)
    refine ⟨k, State.mem_newPresses.1 (mem_of_pickKey hk), fun hlowest i hi => ?_, exec_ldVxK_takes x hk⟩
    rw [hlowest] at hk
    exact le_of_pickKey_lowest s.newPresses_ascending hk (State.mem_newPresses.2 hi)

end Sys2Proof.Machine

/-! The step procedure's answers (60_exceptions.md R171-R174): every call of the host ends in a next state, a `step`
call's result is its own, and a result that is a fault is that of one raise. -/

namespace Sys2Proof.Machine

/-! ## Every call answers -/

/-- No branch of the step procedure ends the machine: its own checks raise or stay halted, and every instruction
answers a next state. -/
theorem State.stepCall_answers (s : State) : ∃ t, s.stepCall = .next t := by
  cases hh : s.halted with
  | true => exact ⟨_, State.stepCall_halted hh⟩
  | false =>
    cases hf : s.fetchWord with
    | none => exact ⟨_, State.stepCall_fetch hh hf⟩
    | some w =>
      cases hd : decodeWord w with
      | unknown u => exact ⟨_, State.stepCall_unknown hh hf hd⟩
      | instr i =>
        obtain ⟨t, ht, -⟩ := exec_outcome i s
        exact ⟨t, (State.stepCall_instr hh hf hd).trans ht⟩

/-- Each end of a `step` call leaves a result: HALTED, a fault, BLOCKED or OK. -/
theorem State.stepCall_lastStep_isSome {s t : State} (h : s.stepCall = .next t) : t.lastStep.isSome = true := by
  obtain ⟨-, rfl⟩ | ⟨-, ⟨f, rfl⟩ | rfl | ⟨u, rfl, -⟩⟩ := State.stepCall_outcome h
  all_goals rfl

/-- Only for a `step` call is there anything to show: the other calls are defined as next states. -/
theorem State.perform_answers (s : State) (c : HostCall) : ∃ t, s.perform c = .next t := by
  cases c with
  | step keys rnd => exact (s.present keys rnd).stepCall_answers
  | _ => exact ⟨_, rfl⟩

/-- Settles O8: the host's next call answers a state, and if it is a `step` call, each of its ends writes a result. -/
theorem everyStepAnswersANextState : Obligations.EveryStepAnswersANextState := by
  unfold Obligations.EveryStepAnswersANextState
  intro s
  obtain ⟨t, ht⟩ : ∃ t, step s = .next t := s.takeCall.perform_answers s.nextCall
  refine ⟨t, ht, fun keys rnd hn => ?_⟩
  rw [step_of_nextCall hn] at ht
  exact State.stepCall_lastStep_isSome ht

/-! ## A raise -/

/-- A fault left as the result was raised in this very call: the other ends leave HALTED, BLOCKED or OK. -/
theorem State.stepCall_eq_raise {s t : State} {f : StepFault} (h : s.stepCall = .next t)
    (hf : t.lastStep = some (.fault f)) : t = s.raise f := by
  obtain ⟨-, rfl⟩ | ⟨-, ⟨g, rfl⟩ | rfl | ⟨u, rfl, -⟩⟩ := State.stepCall_outcome h
  · cases hf
  · cases hf
    rfl
  · cases hf
  · cases hf

/-- Settles O9: the state after is `State.raise` of the fault at the state that holds the call's arguments. -/
theorem raisingStepChangesOnlyFaultAndHalted : Obligations.RaisingStepChangesOnlyFaultAndHalted := by
  unfold Obligations.RaisingStepChangesOnlyFaultAndHalted
  intro s t f keys rnd hn h hf
  rw [step_of_nextCall hn] at h
  exact State.stepCall_eq_raise h hf

/-! ## The order of the checks -/

/-- A core that is not halted runs the instruction its two bytes at PC decode to. -/
theorem State.stepCall_of_decodeBytes {s : State} {i : Instr} (hh : s.halted = false) (hpc : s.pc.toNat + 1 ≤ 0xFFF)
    (hd : decodeBytes (s.readByte s.pc.toNat) (s.readByte (s.pc.toNat + 1)) = .instr i) : s.stepCall = exec i s :=
  State.stepCall_instr hh (State.fetchWord_of_le hpc) hd

/-- Settles O6: listed or free, the call puts its inputs in the state, which leaves HALTED, PC and memory, and so
what is fetched there. -/
theorem stepRunsTheDecodedInstruction : Obligations.StepRunsTheDecodedInstruction := by
  unfold Obligations.StepRunsTheDecodedInstruction
  intro s i hh hpc hd
  refine ⟨fun keys rnd rest hs => ?_, fun hs => ?_⟩
  · exact (step_listed hs).trans (State.stepCall_of_decodeBytes hh hpc hd)
  · exact (step_unlisted hs).trans (State.stepCall_of_decodeBytes hh hpc hd)

/-- Settles O7: one branch of the step procedure for each check, at the state that holds the call's arguments. -/
theorem stepChecksBeforeExecuting : Obligations.StepChecksBeforeExecuting := by
  unfold Obligations.StepChecksBeforeExecuting
  intro s keys rnd hn
  rw [step_of_nextCall hn]
  refine ⟨fun hh => State.stepCall_halted hh, fun hh hpc => ?_, fun hh hpc w hd => ⟨decodeWord_unknown hd, ?_⟩⟩
  · have hraise := State.stepCall_fetch (s := s.takeCall.present keys rnd) hh (State.fetchWord_of_gt hpc)
    exact hraise.trans (congrArg _ (State.raise_of_fatal _ rfl))
  · have hraise := State.stepCall_unknown (s := s.takeCall.present keys rnd) hh (State.fetchWord_of_le hpc) hd
    exact hraise.trans (congrArg _ (State.raise_unknownOpcode _ w))

/-! ## The fault table -/

/-- Settles O10: each row is the defining equation of `StepFault.code` or `StepFault.fatal` at that fault. -/
theorem faultCodesFollowTheTable : Obligations.FaultCodesFollowTheTable := by
  unfold Obligations.FaultCodesFollowTheTable
  intro w a b
  and_intros
  all_goals rfl

/-! ## The timers' tick -/

/-- Counting down is subtraction on the naturals, where 0 stays 0 (60_exceptions.md R185). -/
theorem countDown_eq (b : Byte) : countDown b = BitVec.ofNat 8 (b.toNat - 1) := by
  unfold countDown
  split
  · bv_omega
  · bv_omega

/-- Settles O47: the listed call is `State.tickTimers`, which counts both timers down. -/
theorem tickDecrementsTheTimers : Obligations.TickDecrementsTheTimers := by
  unfold Obligations.TickDecrementsTheTimers
  intro s rest hs
  rw [step_listed hs, ← countDown_eq, ← countDown_eq]
  rfl

end Sys2Proof.Machine

/-! Loading a program and the spin end (70_reset_and_hazards.md R202, R203, R211). -/

namespace Sys2Proof.Machine

/-! ## `load_program` -/

/-- A ROM longer than 0xE00 is refused, and only the reply says so (the spec's decision D17, R202). -/
theorem State.loadProgram_of_gt (s : State) {rom : List Byte} (h : romMax < rom.length) :
    s.loadProgram rom = { s with reply := some (.romTooLarge rom.length) } := if_pos h

/-- A ROM of at most 0xE00 bytes is stored at 0x200 (R203). -/
theorem State.loadProgram_of_le (s : State) {rom : List Byte} (h : rom.length ≤ romMax) :
    s.loadProgram rom = { s.storeBytes progBase rom with reply := some .loadOk } := if_neg (Nat.not_lt.2 h)

/-- Settles O48, by the ROM's length: a loaded ROM is one block stored at 0x200 that ends inside memory, so every
byte read is one of `State.storeBytes`. -/
theorem loadProgramWritesTheRom : Obligations.LoadProgramWritesTheRom := by
  unfold Obligations.LoadProgramWritesTheRom
  intro s rom rest hs
  rw [step_listed hs]
  refine ⟨fun hlong => congrArg _ (State.loadProgram_of_gt _ hlong), fun hfits => ?_⟩
  have hend : progBase + rom.length ≤ memSize := Nat.add_le_add_left hfits 0x200
  refine ⟨_, congrArg _ (State.loadProgram_of_le _ hfits), rfl, fun a ha => ?_, fun hmem k hk => ?_⟩
  · exact State.readByte_storeBytes_outside s ha
  · exact State.readByte_storeBytes_inside hmem hend k hk

/-! ## The spin end -/

/-- A jump to its own address leaves PC where it is: nothing is left of it but its completion. -/
theorem exec_jp_self {s : State} {nnn : Addr12} (h : zext16OfAddr nnn = s.pc) :
    exec (.jp nnn) s = .next s.completed := by
  simp only [exec, execJp, h]
  rfl

/-- The spin end is a fact of PC, memory and the configuration only. -/
theorem State.SpinEnd.congr {s t : State} (h : s.SpinEnd) (hp : t.pc = s.pc) (hm : t.mem = s.mem)
    (hq : t.params = s.params) : t.SpinEnd := by
  unfold State.SpinEnd at h ⊢
  rwa [State.fetchWord_congr hp hm hq, hp]

/-- The word fetched at a spin end decodes to the jump to itself. -/
theorem State.SpinEnd.stepCall_eq {s : State} (h : s.SpinEnd) (hh : s.halted = false) :
    s.stepCall = .next s.completed := by
  obtain ⟨_, hfetch, nnn, rfl, hself⟩ := h
  have hjump : decodeWord (0x1#4 ++ nnn) = .instr (.jp nnn) := decodeWord_encode (.jp nnn) rfl
  exact (State.stepCall_instr hh hfetch hjump).trans (exec_jp_self hself)

/-- Settles O59: the call's arguments leave the spin end as it is, and there a `step` call only completes. -/
theorem spinStepChangesOnlyModeAndLatch : Obligations.SpinStepChangesOnlyModeAndLatch := by
  unfold Obligations.SpinStepChangesOnlyModeAndLatch
  intro s keys rnd hspin hh hn
  have hspin' : (s.takeCall.present keys rnd).SpinEnd := hspin.congr rfl rfl rfl
  exact (step_of_nextCall hn).trans (hspin'.stepCall_eq hh)

end Sys2Proof.Machine
